-- ==== Sys2Proof/Word.lean ====
section
/-! DEFINITION. The word types of the ps2x2pico PS/2 core (00_scope.md R8): the byte a link carries, the 11-bit frame
that carries it on the wire (30_encoding.md R101), and the packet, the unit of the outbound queues (20_memory.md R71). -/

namespace Sys2Proof

/-- `u8`, bit 0 least significant (R8). -/
abbrev Byte := BitVec 8

/-- An 11-bit PS/2 frame; bit `i` is the `i`-th bit in time (R101, R141). -/
abbrev Frame := BitVec 11

/-- A reply group: "an ordered, non-empty sequence of bytes that must be emitted as a logical unit" (R71, R81),
first element first in time. That it is non-empty is an invariant of the queues, not of the type. -/
abbrev Packet := List Byte

end Sys2Proof
end

