-- ==== Sys2Proof/Config.lean ====
section
/-! DEFINITION. The configuration record `cfg` (00_scope.md R7): what the spec calls a parameter of the implementation
(93_implementation_defined.md, treatment "parameter": U3 to U7, U24; 92_eei_decisions.md D6, D11, D16, D36).
The names of R7 whose value the spec fixes stand in Machine/Params.lean (log entry 23). A `Config` is plain data and is carried, never
written, by the machine's state (log entry 2), so that every statement about a state holds for every configuration. -/

namespace Sys2Proof

/-- The three scan-code sets (10_state.md R38). -/
inductive ScanSet where
  | set1
  | set2
  | set3
  deriving DecidableEq, Repr

/-- The mode of one key in the set-3 table (R44): `brk`, its break code is sent; `rep`, it may become the held key. -/
structure KeyMode where
  brk : Bool
  rep : Bool
  deriving DecidableEq, Repr

/-- `KB_UNKNOWN_POLICY` (R7, R218, R383): how the keyboard answers a byte that is no command. -/
inductive UnknownPolicy where
  | ack
  | resend
  deriving DecidableEq, Repr

/-- The codes of one HID usage in the three sets (20_memory.md R72); an empty list is "no code in this set". -/
structure ScanRow where
  usage : Byte
  make1 : Packet
  break1 : Packet
  make2 : Packet
  break2 : Packet
  make3 : Packet
  break3 : Packet
  deriving DecidableEq, Repr

/-- An integer between two bounds. -/
abbrev IntIn (lo hi : Int) := { v : Int // lo ≤ v ∧ v ≤ hi }

/-- A bit of a USB report: the byte's index in the report and the bit's index in the byte. -/
structure BitAt where
  byte : Nat
  bit : Nat
  deriving DecidableEq, Repr

/-- What `NKRO_LAYOUT` makes of a report, "(mods, usage set)" (R7); bit `u` of `usages` says that usage `u` is in the set. -/
structure NkroReading where
  mods : Byte
  usages : BitVec 256
  deriving DecidableEq, Repr, Inhabited

/-- The layouts of roll-over reports that are not given by bit positions: an uninterpreted family (log entry 15). -/
opaque Config.nkroOther : Nat → List Byte → NkroReading

/-- `NKRO_LAYOUT` (R7, U24) as plain data. -/
inductive NkroLayout where
  /-- The spec's default (D30, R331). -/
  | standard
  /-- A bitmap with its bits elsewhere: where the eight modifiers stand, and where each usage stands. -/
  | bits (modAt : Vector BitAt 8) (usageAt : List (Byte × BitAt))
  /-- Any other reading of the report, `Config.nkroOther n`. -/
  | other (n : Nat)
  deriving DecidableEq, Repr

/-- The parameters of R7. -/
structure Config where
  /-- `QCAP`, the packets one outbound queue can hold; the spec leaves it OPEN but for `QCAP ≥ 1` (D6, R426(c)). -/
  qcap : { n : Nat // 1 ≤ n }
  /-- `KB_RESET_ID`, "kept a parameter" (D11, conflict C3). -/
  kbResetId : Packet
  /-- `MS_ID(Wheel5)`, "a parameter" (D36). -/
  msIdWheel5 : Byte
  /-- `XY_MIN` (U4); every bound keeps `x`, `y` and `z` in the domain of `ms_packet` (R305; log entry 24). -/
  xyMin : IntIn (-128) 0
  /-- `XY_MAX` (U4). -/
  xyMax : IntIn 0 127
  /-- `Z_MIN` (U4). -/
  zMin : IntIn (-8) 0
  /-- `Z_MAX` (U4). -/
  zMax : IntIn 0 7
  /-- `NKRO_LAYOUT` (U24). -/
  nkroLayout : NkroLayout
  /-- `KB_UNKNOWN_POLICY` (D10, U3). -/
  unknownPolicy : UnknownPolicy
  /-- `RATE_TABLE`, 32 periods in microseconds (R73, U6). -/
  rateTable : Vector (BitVec 32) 32
  /-- `KB_DEFAULT_INTERVAL_US` (D16). -/
  kbDefaultIntervalUs : BitVec 32
  /-- `KB_DEFAULT_DELAY_MS` (D16). -/
  kbDefaultDelayMs : BitVec 16
  /-- The resource behind `MAKE` and `BREAK` (R72, R241, U5): the first row of a usage counts, a usage with no row has
  no code in any set. -/
  scanTable : List ScanRow
  deriving DecidableEq, Repr

end Sys2Proof
end

