-- ==== Sys2Proof/Syntax.lean ====
section
/-! DEFINITION. The syntax: one constructor of `Instr` per mnemonic of spec/opcode_table.json, and `Input`, the form in
which the environment hands one instruction to the machine. An instruction of this hardware is one input event, and its
opcode is a host byte read under the pending state of the addressed device (00_scope.md R6, R11; 30_encoding.md R139). -/

namespace Sys2Proof

/-- The two emulated devices; each has its own Link (41_link.md R160). -/
inductive Dev where
  | kb
  | ms
  deriving DecidableEq, Repr

/-- `ms.device_type` (10_state.md R42). -/
inductive DeviceType where
  | standard
  | wheel3
  | wheel5
  deriving DecidableEq, Repr

/-- The three key modes that a pending `KeyMode(m)` can hold (R31): entered by `0xFB`, `0xFC`, `0xFD`. -/
inductive KeySel where
  | makeTypematic
  | makeBreak
  | make
  deriving DecidableEq, Repr

/-- `kb.pending` (R31); `idle` is the spec's `none`, the source's `Idle`. -/
inductive KbPending where
  | idle
  | led
  | typematic
  | scanSet
  | keyMode (m : KeySel)
  deriving DecidableEq, Repr

/-- `ms.pending` (R32); `idle` is the spec's `none`. -/
inductive MsPending where
  | idle
  | rate
  deriving DecidableEq, Repr

/-- A USB keyboard report (30_encoding.md R109): the 8-byte boot layout, or the bytes of an N-key-roll-over report, at
least one (93 U12), whose meaning is that of `NKRO_LAYOUT`. -/
inductive KbReport where
  | boot (mods reserved k1 k2 k3 k4 k5 k6 : Byte)
  | nkro (first : Byte) (rest : List Byte)
  deriving DecidableEq, Repr

/-- A USB mouse report (R109): the 4-byte boot layout, or the record the external descriptor parser extracted. -/
inductive MsReport where
  | boot (b0 b1 b2 b3 : Byte)
  | extracted (buttons : Byte) (dx dy dw : Int)
  deriving DecidableEq, Repr

/-- The normal form of a keyboard report (46_hid_keyboard_differencer.md R331). -/
structure NormReport where
  mods : Byte
  keys : List Byte
  deriving DecidableEq, Repr

/-- "`{usage, pressed, modifiers}`, derived, not stored" (43_keyboard_keys_typematic.md R240). -/
structure KeyEvent where
  usage : Byte
  pressed : Bool
  modifiers : Byte
  deriving DecidableEq, Repr

/-- The instructions: one constructor per mnemonic of spec/opcode_table.json, operands already extracted. -/
inductive Instr where
  -- space frame
  | frameEncode (b : Byte)
  | frameDecode (f : Frame)
  -- space kb.command
  | kbReset
  | kbResend
  | kbKeymake
  | kbKeymakebreak
  | kbKeytypematic
  | kbAlltmb
  | kbAllmake
  | kbAllmakebreak
  | kbAlltypematic
  | kbSetdefaults
  | kbDisable
  | kbEnable
  | kbSettypematic
  | kbReadid
  | kbSetscanset
  | kbEcho
  | kbSetleds
  | kbUnknown (b : Byte)
  -- space kb.param
  | kbPLed (mask : Byte)
  | kbPTypematic (ignored : BitVec 1) (delay : BitVec 2) (rate : BitVec 5)
  | kbPScanset (n : Byte)
  | kbPKeymode (m : KeySel) (code : Byte)
  -- space ms.command
  | msReset
  | msSetdefaults
  | msDisable
  | msEnable
  | msSetrate
  | msGetid
  | msSetstream
  | msStatus
  | msUnknown (b : Byte)
  -- space ms.param
  | msPRate (rate : Byte)
  -- space event
  | evMount
  | evRxframe (d : Dev) (f : Frame)
  | evParityerror (d : Dev)
  | evTx (d : Dev)
  | evKbreport (r : KbReport)
  | evMsreport (r : MsReport)
  | evKbtick
  | evMstick
  -- space ms.packet: the operands of `ms_packet` that the format carries (x, y and z signed)
  | mspkt3 (btn : BitVec 3) (x y : BitVec 8)
  | mspkt4Wheel3 (btn : BitVec 3) (x y : BitVec 8) (z : BitVec 4)
  | mspkt4Wheel5 (btn : BitVec 5) (x y : BitVec 8) (z : BitVec 4)
  deriving DecidableEq, Repr

/-- What the environment hands to the machine at one step, in the formats of 30_encoding.md R100: the events of
00_scope.md R11 with their raw operands; the two Link callbacks of 41_link.md R160 (`hostByte` is `on_byte`,
`parityError` is `on_parity_error`); and a word given to the frame codec or to the packet format on its own
(log entries 4 and 5). -/
inductive Input where
  | mount
  | rxFrame (d : Dev) (f : Frame)
  | parityError (d : Dev)
  | hostByte (d : Dev) (b : Byte)
  | tx (d : Dev)
  | kbBoot (r : List Byte)
  | kbNkro (r : List Byte)
  | msBoot (r : List Byte)
  | msExt (buttons : Byte) (dx dy dw : Int)
  | kbTick
  | msTick
  /-- A word of the row FRAME.ENCODE: the frame of a byte to be transmitted. -/
  | frameOut (f : Frame)
  /-- A word of the row FRAME.DECODE: a captured frame, valid or not. -/
  | frameIn (f : Frame)
  /-- A word of a row of space ms.packet, under the device type its `when` names. -/
  | packet (t : DeviceType) (p : Packet)
  deriving DecidableEq, Repr

end Sys2Proof
end

