-- ==== Sys2Proof/Machine/Params.lean ====
section
/-! DEFINITION. The parameters of 00_scope.md R7 whose value the spec states, each under its own name, the reply bytes of
30_encoding.md R105, and the configuration that State.reset carries. -/

namespace Sys2Proof.Machine

/-! ## Reply bytes (R105) -/

/-- ACK. -/
def ackByte : Byte := 0xFA
/-- Resend. -/
def resendByte : Byte := 0xFE
/-- Self-test pass. -/
def selfTestByte : Byte := 0xAA
/-- Echo. -/
def echoByte : Byte := 0xEE

/-! ## Keyboard (R7) -/

/-- `DELAY_TABLE`, milliseconds, indexed in the order the source lists the values (D17). -/
def delayTable : Vector (BitVec 16) 4 := #v[250, 500, 750, 1000]
/-- `KB_DEFAULT_SET`. -/
def kbDefaultSet : ScanSet := .set2
/-- `KB_DEFAULT_LEDS`. -/
def kbDefaultLeds : Byte := 0x00
/-- `KB_ID`. -/
def kbId : Packet := [0xAB, 0x83]
/-- `KEY_MODE_DEFAULT`: make+break+typematic (D21). -/
def keyModeDefault : KeyMode := ⟨true, true⟩
/-- `PAUSE_USAGE` (GK6). -/
def pauseUsage : Byte := 0x48
/-- `PRTSC_USAGE` (GK6): only a row of the scan-code table, no rule reads it. -/
def prtscUsage : Byte := 0x46
/-- `MOD_USAGE(i)`, `i` in 0..7 (GK7). -/
def modUsage (i : Nat) : Byte := BitVec.ofNat 8 (0xE0 + i)

/-- The key mode that each of `0xFB`, `0xFC`, `0xFD` selects (R31, R44). -/
def keyModeOf : KeySel → KeyMode
  | .makeTypematic => ⟨false, true⟩
  | .makeBreak => ⟨true, false⟩
  | .make => ⟨false, false⟩

/-- The number of a scan-code set as a byte, the reply of the query (R105, R205). -/
def scanSetNumber : ScanSet → Byte
  | .set1 => 0x01
  | .set2 => 0x02
  | .set3 => 0x03

/-! ## Mouse (R7) -/

/-- `MS_ID`. -/
def msId (cfg : Config) : DeviceType → Byte
  | .standard => 0x00
  | .wheel3 => 0x03
  | .wheel5 => cfg.msIdWheel5
/-- `MS_DEFAULT_RATE`. -/
def msDefaultRate : Byte := 100
/-- `MS_RESOLUTION` (GK9, D37). -/
def msResolution : Byte := 0x02
/-- `MAGIC_WHEEL3`: rates 200, 100, 80, oldest in bits 23:16 (20_memory.md R83). -/
def magicWheel3 : BitVec 24 := 0xC86450
/-- `MAGIC_WHEEL5`: rates 200, 200, 80. -/
def magicWheel5 : BitVec 24 := 0xC8C850
/-- `ACC_MIN`. -/
def accMin : Int := -32768
/-- `ACC_MAX`. -/
def accMax : Int := 32767

/-! ## The configuration of State.reset (log entries 2 and 3)

No statement about the machine rests on these values: a state may carry any configuration. -/

/-- The customary typematic periods in microseconds (GK1). -/
def sampleRateTable : Vector (BitVec 32) 32 :=
  #v[33333, 37453, 41667, 45872, 48309, 54054, 58480, 62500,
     66667, 75188, 83333, 91743, 100000, 108696, 116279, 125000,
     133333, 149254, 166667, 181818, 200000, 217391, 232558, 250000,
     270270, 303030, 333333, 370370, 400000, 434783, 476190, 500000]

/-- The customary shape of a set-1 break code (GK5): the last byte with bit 7 set, any prefix kept. -/
def sampleBreak1 (m : Packet) : Packet :=
  match m.getLast? with
  | none => []
  | some c => m.dropLast ++ [c ||| 0x80]

/-- The customary shape of a break code in sets 2 and 3 (GK5): `0xF0` before the last byte. -/
def sampleBreak23 (m : Packet) : Packet :=
  match m.getLast? with
  | none => []
  | some c => m.dropLast ++ [0xF0, c]

/-- A row of the sample table from its three make codes. -/
def sampleRow (u : Byte) (m1 m2 m3 : Packet) : ScanRow :=
  ⟨u, m1, sampleBreak1 m1, m2, sampleBreak23 m2, m3, sampleBreak23 m3⟩

/-- The spec's sample scan codes (GK4, and GK11 for Print Screen and Pause, which has no break code). -/
def sampleScanTable : List ScanRow :=
  [ sampleRow 0x04 [0x1E] [0x1C] [0x1C],
    sampleRow 0x05 [0x30] [0x32] [0x32],
    sampleRow 0x06 [0x2E] [0x21] [0x21],
    sampleRow 0x28 [0x1C] [0x5A] [0x5A],
    sampleRow 0x2C [0x39] [0x29] [0x29],
    sampleRow 0xE0 [0x1D] [0x14] [0x11],
    sampleRow 0xE1 [0x2A] [0x12] [0x12],
    sampleRow 0xE4 [0xE0, 0x1D] [0xE0, 0x14] [0x58],
    sampleRow 0x52 [0xE0, 0x48] [0xE0, 0x75] [0x63],
    sampleRow prtscUsage [0xE0, 0x37] [0xE0, 0x7C] [0x57],
    ⟨pauseUsage, [0xE1, 0x1D, 0x45, 0xE1, 0x9D, 0xC5], [],
      [0xE1, 0x14, 0x77, 0xE1, 0xF0, 0x14, 0xF0, 0x77], [], [0x62], []⟩ ]

/-- The configuration State.reset carries: `QCAP` 16, the values of R7, the tables above. -/
def sampleConfig : Config where
  qcap := ⟨16, by decide⟩
  kbResetId := [0x00]
  msIdWheel5 := 0x04
  xyMin := ⟨-128, by decide⟩
  xyMax := ⟨127, by decide⟩
  zMin := ⟨-8, by decide⟩
  zMax := ⟨7, by decide⟩
  nkroLayout := .standard
  unknownPolicy := .ack
  rateTable := sampleRateTable
  kbDefaultIntervalUs := 91743
  kbDefaultDelayMs := 500
  scanTable := sampleScanTable

end Sys2Proof.Machine
end

