-- ==== Sys2Proof/Machine/Codec.lean ====
section
/-! DEFINITION. The frame codec (40_frame_codec.md): the pure functions between a byte and its 11-bit frame. -/

namespace Sys2Proof

/-- The result of `decode` (R140): a byte, or `ParityError`, "never a byte value". -/
inductive Decoded where
  | ok (b : Byte)
  | parityError
  deriving DecidableEq, Repr

end Sys2Proof

namespace Sys2Proof.Machine

/-- The number of 1 bits of a byte (00_scope.md R8). -/
def popcount (b : Byte) : Nat :=
  (b.getLsbD 0).toNat + (b.getLsbD 1).toNat + (b.getLsbD 2).toNat + (b.getLsbD 3).toNat +
  (b.getLsbD 4).toNat + (b.getLsbD 5).toNat + (b.getLsbD 6).toNat + (b.getLsbD 7).toNat

/-- `parity(b) = 1 XOR (popcount(b) mod 2)` (R142): data and parity together hold an odd number of 1 bits. -/
def parity (b : Byte) : BitVec 1 :=
  1#1 ^^^ BitVec.ofNat 1 (popcount b % 2)

/-- `encode(b)` as the concatenation `stop, parity, data[7:0], start` (R141, R143). -/
def encodeFrame (b : Byte) : Frame :=
  1#1 ++ parity b ++ b ++ 0#1

/-- The field `data = f[8:1]` (R141). -/
def frameData (f : Frame) : Byte :=
  f.extractLsb' 1 8

/-- `decode(f)` (R144): start bit 0, stop bit 1 (conflict C1) and the parity of the data. -/
def decodeFrame (f : Frame) : Decoded :=
  if f.extractLsb' 0 1 ≠ 0#1 then .parityError
  else if f.extractLsb' 10 1 ≠ 1#1 then .parityError
  else if f.extractLsb' 9 1 ≠ parity (frameData f) then .parityError
  else .ok (frameData f)

end Sys2Proof.Machine
end

