-- ==== Sys2Proof/Machine/Operands.lean ====
section
/-! DEFINITION. Operand assembly (30_encoding.md R125): the numeric helpers of 00_scope.md R9, the fields of the parameter
bytes, the bytes of a movement packet (45_mouse_streaming.md R305), the scan-code lookups (43 R241) and the normal form of
a keyboard report (46 R331). Pure functions: none of them reads the state. -/

namespace Sys2Proof.Machine

/-! ## Numeric helpers (R9) -/

/-- `sext_8(v)`. -/
def sext8 (v : Byte) : Int := v.toInt

/-- `clamp(v, lo, hi)`. -/
def clamp (v lo hi : Int) : Int :=
  if v < lo then lo else if v > hi then hi else v

/-- `sat16(v)`. -/
def sat16 (v : Int) : Int := clamp v accMin accMax

/-- `low8(v) = v mod 256`, the mathematical modulus. -/
def low8 (v : Int) : Byte := BitVec.ofInt 8 v

/-- `low4(v) = v mod 16`. -/
def low4 (v : Int) : BitVec 4 := BitVec.ofInt 4 v

/-! ## Parameter bytes (R103, R125) -/

/-- Bit 7 of the typematic byte, ignored. -/
def typematicIgnored (b : Byte) : BitVec 1 := b.extractLsb' 7 1
/-- Bits 6:5 of the typematic byte. -/
def typematicDelay (b : Byte) : BitVec 2 := b.extractLsb' 5 2
/-- Bits 4:0 of the typematic byte. -/
def typematicRate (b : Byte) : BitVec 5 := b.extractLsb' 0 5

/-- `RATE_TABLE[rate]` (R73, R204). -/
def rateOf (cfg : Config) (rate : BitVec 5) : BitVec 32 :=
  cfg.rateTable[rate.toNat]'rate.isLt

/-- `DELAY_TABLE[delay]` (R73, R204). -/
def delayOf (delay : BitVec 2) : BitVec 16 :=
  delayTable[delay.toNat]'delay.isLt

/-- `((window << 8) | b) mod 2^24`: the oldest byte drops out (20_memory.md R83). -/
def pushWindow (window : BitVec 24) (b : Byte) : BitVec 24 :=
  (window <<< 8) ||| b.setWidth 24

/-! ## The movement packet (R107, R305) -/

/-- The button bits of byte 1 with the two sign flags and the constant bit 3. `y` is in the USB convention; the flag is
the sign of the transmitted `-y`. -/
def msByte1 (x y : Int) (btn : Byte) : Byte :=
  0x08 ||| (btn &&& 0x07) ||| (if x < 0 then 0x10 else 0x00) ||| (if y > 0 then 0x20 else 0x00)

/-- `ms_packet(x, y, z, btn, type)` (R305). -/
def msPacket (x y z : Int) (btn : Byte) (t : DeviceType) : Packet :=
  match t with
  | .standard => [msByte1 x y btn, low8 x, low8 (0x100 - y)]
  | .wheel3 => [msByte1 x y btn, low8 x, low8 (0x100 - y), low8 z]
  | .wheel5 =>
    [msByte1 x y btn, low8 x, low8 (0x100 - y), (low4 z).setWidth 8 ||| (((btn >>> 3) &&& 0x03) <<< 4)]

/-! ## Scan codes (R72, R241) -/

/-- The row of a usage, if the table has one. -/
def scanRow (cfg : Config) (u : Byte) : Option ScanRow :=
  cfg.scanTable.find? (fun r => r.usage == u)

/-- `MAKE(set, usage)`; the empty list is "no code in this set". -/
def makeCode (cfg : Config) (set : ScanSet) (u : Byte) : Packet :=
  match scanRow cfg u with
  | none => []
  | some r =>
    match set with
    | .set1 => r.make1
    | .set2 => r.make2
    | .set3 => r.make3

/-- `BREAK(set, usage)`; empty for Pause in every set, whatever the table holds (R241(c)). -/
def breakCode (cfg : Config) (set : ScanSet) (u : Byte) : Packet :=
  if u = pauseUsage then []
  else
    match scanRow cfg u with
    | none => []
    | some r =>
      match set with
      | .set1 => r.break1
      | .set2 => r.break2
      | .set3 => r.break3

/-- `SET3_CODE(usage)`: the last byte of `MAKE(3, usage)` (R7, D23). -/
def set3Code (cfg : Config) (u : Byte) : Option Byte :=
  (makeCode cfg .set3 u).getLast?

/-! ## Keyboard reports (R331) -/

/-- The keys of a boot report: the non-zero slots in slot order, each usage once. -/
def bootKeys (slots : List Byte) : List Byte :=
  slots.foldl (fun keys k => if k ≠ 0x00 ∧ k ∉ keys then keys ++ [k] else keys) []

/-- A bit of a report; one that the report is too short to hold is not set. -/
def reportBit (r : List Byte) (p : BitAt) : Bool :=
  (r.getD p.byte 0x00).getLsbD p.bit

/-- The modifier mask of a roll-over report: byte 0 in the default layout (D30). -/
def nkroMods (layout : NkroLayout) (r : List Byte) : Byte :=
  match layout with
  | .standard => r.getD 0 0x00
  | .bits modAt _ => BitVec.ofNat 8 ((modAt.toList.map (reportBit r)).foldr (fun b m => b.toNat + 2 * m) 0)
  | .other n => (Config.nkroOther n r).mods

/-- Whether a usage is in the set a roll-over report holds: in the default layout bit `u mod 8` of `r[1 + u div 8]` (D30). -/
def nkroPressed (layout : NkroLayout) (r : List Byte) (u : Nat) : Bool :=
  match layout with
  | .standard => reportBit r ⟨1 + u / 8, u % 8⟩
  | .bits _ usageAt => usageAt.any (fun e => e.1.toNat == u && reportBit r e.2)
  | .other n => (Config.nkroOther n r).usages.getLsbD u

/-- The keys of a roll-over report: ascending, usage 0 skipped, none above 255. -/
def nkroKeys (layout : NkroLayout) (r : List Byte) : List Byte :=
  ((List.range' 1 255).filter (nkroPressed layout r)).map (BitVec.ofNat 8)

/-- `norm(r)`, here `normReport`. Byte 1 of a boot report is reserved and ignored. -/
def normReport (layout : NkroLayout) : KbReport → NormReport
  | .boot mods _ k1 k2 k3 k4 k5 k6 => ⟨mods, bootKeys [k1, k2, k3, k4, k5, k6]⟩
  | .nkro first rest => ⟨nkroMods layout (first :: rest), nkroKeys layout (first :: rest)⟩

/-! ## The difference of two reports (R334, R335) -/

/-- Step 1: the changed modifier bits, bit 0 first. -/
def modifierEvents (prevMods mods : Byte) : List KeyEvent :=
  ((List.range 8).filter (fun i => mods.getLsbD i ≠ prevMods.getLsbD i)).map
    (fun i => ⟨modUsage i, mods.getLsbD i, mods⟩)

/-- Step 2: the releases, in the order of the previous report. -/
def releaseEvents (prevKeys keys : List Byte) (mods : Byte) : List KeyEvent :=
  (prevKeys.filter (fun u => u ∉ keys)).map (fun u => ⟨u, false, mods⟩)

/-- Step 3: the presses, in the order of the current report. -/
def pressEvents (prevKeys keys : List Byte) (mods : Byte) : List KeyEvent :=
  (keys.filter (fun u => u ∉ prevKeys)).map (fun u => ⟨u, true, mods⟩)

/-- The key events of a report transition, in order. -/
def diffEvents (prevMods : Byte) (prevKeys : List Byte) (n : NormReport) : List KeyEvent :=
  modifierEvents prevMods n.mods ++ releaseEvents prevKeys n.keys n.mods ++ pressEvents prevKeys n.keys n.mods

end Sys2Proof.Machine
end

