-- ==== Sys2Proof/WellFormed.lean ====
section
/-! DEFINITION. Well-formed instructions. The types of the operands already hold most of what the formats ask
(widths, report lengths); what is left is that an UNKNOWN command carries a byte that is no command of its device. -/

namespace Sys2Proof

/-- The keyboard values with no row of their own (42_keyboard_commands.md R218): `0x00` to `0xEC`, `0xEF`, `0xF1`. -/
def kbNoRow (b : Byte) : Bool :=
  b.toNat ≤ 0xEC || b.toNat == 0xEF || b.toNat == 0xF1

/-- The mouse values with no row of their own (30_encoding.md R120): `0x00` to `0xE8`, `0xEB` to `0xF1`,
`0xF7` to `0xFE`. -/
def msNoRow (b : Byte) : Bool :=
  b.toNat ≤ 0xE8 || (0xEB ≤ b.toNat && b.toNat ≤ 0xF1) || (0xF7 ≤ b.toNat && b.toNat ≤ 0xFE)

/-- The check. -/
def Instr.wf (i : Instr) : Bool :=
  match i with
  | .kbUnknown b => kbNoRow b
  | .msUnknown b => msNoRow b
  | .frameEncode _ | .frameDecode _
  | .kbReset | .kbResend | .kbKeymake | .kbKeymakebreak | .kbKeytypematic | .kbAlltmb | .kbAllmake | .kbAllmakebreak
  | .kbAlltypematic | .kbSetdefaults | .kbDisable | .kbEnable | .kbSettypematic | .kbReadid | .kbSetscanset | .kbEcho
  | .kbSetleds
  | .kbPLed _ | .kbPTypematic _ _ _ | .kbPScanset _ | .kbPKeymode _ _
  | .msReset | .msSetdefaults | .msDisable | .msEnable | .msSetrate | .msGetid | .msSetstream | .msStatus
  | .msPRate _
  | .evMount | .evRxframe _ _ | .evParityerror _ | .evTx _ | .evKbreport _ | .evMsreport _ | .evKbtick | .evMstick
  | .mspkt3 _ _ _ | .mspkt4Wheel3 _ _ _ _ | .mspkt4Wheel5 _ _ _ _ => true

end Sys2Proof
end

