-- ==== Sys2Proof/Decode.lean ====
section
/-! DEFINITION. The decoder: what one `Input` means, total, rejecting by name; and after it the encoder, from the same
tables. A host byte is decoded from three things in this order (30_encoding.md R104): the device, that device's pending
state, and the value of the byte. The command maps are the rows of spec/opcode_table.json, match and mask (R139). -/

namespace Sys2Proof

/-- The state a host byte's decoding depends on (R104). -/
structure DecodeCtx where
  kb : KbPending
  ms : MsPending
  deriving DecidableEq, Repr

/-- Why an input is not an instruction. -/
inductive DecodeError where
  /-- A USB report whose length is not that of its format (93 U12). -/
  | reportLength
  /-- A word of FRAME.ENCODE that is the frame of no byte. -/
  | notAFrame
  /-- A word of space ms.packet that `ms_packet` never makes. -/
  | notAPacket
  deriving DecidableEq, Repr

/-- The decoder's answer. -/
inductive DecodeResult where
  | ok (i : Instr)
  | reject (e : DecodeError)
  deriving DecidableEq, Repr

/-- A row of a command map: it matches a byte `b` when `b AND mask = value` (R139). -/
structure CommandRow where
  value : Byte
  mask : Byte
  instr : Byte → Instr

/-- Whether a row matches. -/
def CommandRow.hits (r : CommandRow) (b : Byte) : Bool := (b &&& r.mask) == r.value

/-- The rows of space kb.command (R110). -/
def kbRows : List CommandRow :=
  [ ⟨0xFF, 0xFF, fun _ => .kbReset⟩,
    ⟨0xFE, 0xFF, fun _ => .kbResend⟩,
    ⟨0xFD, 0xFF, fun _ => .kbKeymake⟩,
    ⟨0xFC, 0xFF, fun _ => .kbKeymakebreak⟩,
    ⟨0xFB, 0xFF, fun _ => .kbKeytypematic⟩,
    ⟨0xFA, 0xFF, fun _ => .kbAlltmb⟩,
    ⟨0xF9, 0xFF, fun _ => .kbAllmake⟩,
    ⟨0xF8, 0xFF, fun _ => .kbAllmakebreak⟩,
    ⟨0xF7, 0xFF, fun _ => .kbAlltypematic⟩,
    ⟨0xF6, 0xFF, fun _ => .kbSetdefaults⟩,
    ⟨0xF5, 0xFF, fun _ => .kbDisable⟩,
    ⟨0xF4, 0xFF, fun _ => .kbEnable⟩,
    ⟨0xF3, 0xFF, fun _ => .kbSettypematic⟩,
    ⟨0xF2, 0xFF, fun _ => .kbReadid⟩,
    ⟨0xF0, 0xFF, fun _ => .kbSetscanset⟩,
    ⟨0xEE, 0xFF, fun _ => .kbEcho⟩,
    ⟨0xED, 0xFF, fun _ => .kbSetleds⟩,
    ⟨0xF1, 0xFF, .kbUnknown⟩,
    ⟨0xEF, 0xFF, .kbUnknown⟩,
    ⟨0xEC, 0xFF, .kbUnknown⟩,
    ⟨0xE8, 0xFC, .kbUnknown⟩,
    ⟨0xE0, 0xF8, .kbUnknown⟩,
    ⟨0xC0, 0xE0, .kbUnknown⟩,
    ⟨0x80, 0xC0, .kbUnknown⟩,
    ⟨0x00, 0x80, .kbUnknown⟩ ]

/-- The rows of space ms.command (R120). -/
def msRows : List CommandRow :=
  [ ⟨0xFF, 0xFF, fun _ => .msReset⟩,
    ⟨0xF6, 0xFF, fun _ => .msSetdefaults⟩,
    ⟨0xF5, 0xFF, fun _ => .msDisable⟩,
    ⟨0xF4, 0xFF, fun _ => .msEnable⟩,
    ⟨0xF3, 0xFF, fun _ => .msSetrate⟩,
    ⟨0xF2, 0xFF, fun _ => .msGetid⟩,
    ⟨0xEA, 0xFF, fun _ => .msSetstream⟩,
    ⟨0xE9, 0xFF, fun _ => .msStatus⟩,
    ⟨0xFE, 0xFF, .msUnknown⟩,
    ⟨0xFC, 0xFE, .msUnknown⟩,
    ⟨0xF8, 0xFC, .msUnknown⟩,
    ⟨0xF7, 0xFF, .msUnknown⟩,
    ⟨0xF0, 0xFE, .msUnknown⟩,
    ⟨0xEC, 0xFC, .msUnknown⟩,
    ⟨0xEB, 0xFF, .msUnknown⟩,
    ⟨0xE8, 0xFF, .msUnknown⟩,
    ⟨0xE0, 0xF8, .msUnknown⟩,
    ⟨0xC0, 0xE0, .msUnknown⟩,
    ⟨0x80, 0xC0, .msUnknown⟩,
    ⟨0x00, 0x80, .msUnknown⟩ ]

/-- The keyboard command a byte selects; the rows cover every value, so the last case is never taken. -/
def decodeKbCommand (b : Byte) : Instr :=
  match kbRows.find? (fun r => r.hits b) with
  | some r => r.instr b
  | none => .kbUnknown b

/-- The mouse command a byte selects. -/
def decodeMsCommand (b : Byte) : Instr :=
  match msRows.find? (fun r => r.hits b) with
  | some r => r.instr b
  | none => .msUnknown b

/-- A byte for the keyboard under its pending state (R104, R111). -/
def decodeKbByte (p : KbPending) (b : Byte) : Instr :=
  match p with
  | .idle => decodeKbCommand b
  | .led => .kbPLed b
  | .typematic => .kbPTypematic (Machine.typematicIgnored b) (Machine.typematicDelay b) (Machine.typematicRate b)
  | .scanSet => .kbPScanset b
  | .keyMode m => .kbPKeymode m b

/-- A byte for the mouse under its pending state (R104, R121). -/
def decodeMsByte (p : MsPending) (b : Byte) : Instr :=
  match p with
  | .idle => decodeMsCommand b
  | .rate => .msPRate b

/-- Whether byte 1 of a movement packet has its constant bits and the sign flags of the deltas beside it (R107). -/
def packetHead (b1 : Byte) (x y : BitVec 8) : Bool :=
  b1.extractLsb' 6 2 == 0#2 && b1.getLsbD 3 == true &&
  b1.getLsbD 4 == decide (x.toInt < 0) && b1.getLsbD 5 == decide (y.toInt > 0)

/-- A movement packet under a device type (R107): the operands of `ms_packet` that make it. Byte 3 holds `-y`. -/
def decodePacket (t : DeviceType) (p : Packet) : DecodeResult :=
  match t, p with
  | .standard, [b1, b2, b3] =>
    if packetHead b1 b2 (-b3) then .ok (.mspkt3 (b1.extractLsb' 0 3) b2 (-b3)) else .reject .notAPacket
  | .wheel3, [b1, b2, b3, b4] =>
    if packetHead b1 b2 (-b3) && (b4.extractLsb' 0 4).signExtend 8 == b4 then
      .ok (.mspkt4Wheel3 (b1.extractLsb' 0 3) b2 (-b3) (b4.extractLsb' 0 4))
    else .reject .notAPacket
  | .wheel5, [b1, b2, b3, b4] =>
    if packetHead b1 b2 (-b3) && b4.extractLsb' 6 2 == 0#2 then
      .ok (.mspkt4Wheel5 (b4.extractLsb' 4 2 ++ b1.extractLsb' 0 3) b2 (-b3) (b4.extractLsb' 0 4))
    else .reject .notAPacket
  | _, _ => .reject .notAPacket

/-- The decoder. -/
def decode (c : DecodeCtx) (w : Input) : DecodeResult :=
  match w with
  | .mount => .ok .evMount
  | .rxFrame d f => .ok (.evRxframe d f)
  | .parityError d => .ok (.evParityerror d)
  | .hostByte .kb b => .ok (decodeKbByte c.kb b)
  | .hostByte .ms b => .ok (decodeMsByte c.ms b)
  | .tx d => .ok (.evTx d)
  | .kbBoot [m, r, k1, k2, k3, k4, k5, k6] => .ok (.evKbreport (.boot m r k1 k2 k3 k4 k5 k6))
  | .kbBoot _ => .reject .reportLength
  | .kbNkro (first :: rest) => .ok (.evKbreport (.nkro first rest))
  | .kbNkro [] => .reject .reportLength
  | .msBoot [b0, b1, b2, b3] => .ok (.evMsreport (.boot b0 b1 b2 b3))
  | .msBoot _ => .reject .reportLength
  | .msExt b dx dy dw => .ok (.evMsreport (.extracted b dx dy dw))
  | .kbTick => .ok .evKbtick
  | .msTick => .ok .evMstick
  | .frameOut f =>
    match Machine.decodeFrame f with
    | .ok b => .ok (.frameEncode b)
    | .parityError => .reject .notAFrame
  | .frameIn f => .ok (.frameDecode f)
  | .packet t p => decodePacket t p

/-! ## The encoder -/

/-- The word of an instruction: a command's byte (R110, R120), a parameter's fields put back in their places (R103), an
event with its raw operands, a frame, a packet (R107). -/
def encode (i : Instr) : Input :=
  match i with
  | .frameEncode b => .frameOut (Machine.encodeFrame b)
  | .frameDecode f => .frameIn f
  | .kbReset => .hostByte .kb 0xFF
  | .kbResend => .hostByte .kb 0xFE
  | .kbKeymake => .hostByte .kb 0xFD
  | .kbKeymakebreak => .hostByte .kb 0xFC
  | .kbKeytypematic => .hostByte .kb 0xFB
  | .kbAlltmb => .hostByte .kb 0xFA
  | .kbAllmake => .hostByte .kb 0xF9
  | .kbAllmakebreak => .hostByte .kb 0xF8
  | .kbAlltypematic => .hostByte .kb 0xF7
  | .kbSetdefaults => .hostByte .kb 0xF6
  | .kbDisable => .hostByte .kb 0xF5
  | .kbEnable => .hostByte .kb 0xF4
  | .kbSettypematic => .hostByte .kb 0xF3
  | .kbReadid => .hostByte .kb 0xF2
  | .kbSetscanset => .hostByte .kb 0xF0
  | .kbEcho => .hostByte .kb 0xEE
  | .kbSetleds => .hostByte .kb 0xED
  | .kbUnknown b => .hostByte .kb b
  | .kbPLed mask => .hostByte .kb mask
  | .kbPTypematic ignored delay rate => .hostByte .kb (ignored ++ delay ++ rate)
  | .kbPScanset n => .hostByte .kb n
  | .kbPKeymode _ code => .hostByte .kb code
  | .msReset => .hostByte .ms 0xFF
  | .msSetdefaults => .hostByte .ms 0xF6
  | .msDisable => .hostByte .ms 0xF5
  | .msEnable => .hostByte .ms 0xF4
  | .msSetrate => .hostByte .ms 0xF3
  | .msGetid => .hostByte .ms 0xF2
  | .msSetstream => .hostByte .ms 0xEA
  | .msStatus => .hostByte .ms 0xE9
  | .msUnknown b => .hostByte .ms b
  | .msPRate rate => .hostByte .ms rate
  | .evMount => .mount
  | .evRxframe d f => .rxFrame d f
  | .evParityerror d => .parityError d
  | .evTx d => .tx d
  | .evKbreport (.boot m r k1 k2 k3 k4 k5 k6) => .kbBoot [m, r, k1, k2, k3, k4, k5, k6]
  | .evKbreport (.nkro first rest) => .kbNkro (first :: rest)
  | .evMsreport (.boot b0 b1 b2 b3) => .msBoot [b0, b1, b2, b3]
  | .evMsreport (.extracted b dx dy dw) => .msExt b dx dy dw
  | .evKbtick => .kbTick
  | .evMstick => .msTick
  | .mspkt3 btn x y => .packet .standard (Machine.msPacket x.toInt y.toInt 0 (btn.setWidth 8) .standard)
  | .mspkt4Wheel3 btn x y z =>
    .packet .wheel3 (Machine.msPacket x.toInt y.toInt z.toInt (btn.setWidth 8) .wheel3)
  | .mspkt4Wheel5 btn x y z =>
    .packet .wheel5 (Machine.msPacket x.toInt y.toInt z.toInt (btn.setWidth 8) .wheel5)

/-- The condition of the `when` column of the table, as far as it concerns decoding (R104, R139): commands need their
device's pending state `none`, parameters the pending state that consumes them; nothing else depends on it. -/
def Instr.admittedIn (i : Instr) (c : DecodeCtx) : Bool :=
  match i with
  | .kbReset | .kbResend | .kbKeymake | .kbKeymakebreak | .kbKeytypematic | .kbAlltmb | .kbAllmake | .kbAllmakebreak
  | .kbAlltypematic | .kbSetdefaults | .kbDisable | .kbEnable | .kbSettypematic | .kbReadid | .kbSetscanset | .kbEcho
  | .kbSetleds | .kbUnknown _ => c.kb == .idle
  | .kbPLed _ => c.kb == .led
  | .kbPTypematic _ _ _ => c.kb == .typematic
  | .kbPScanset _ => c.kb == .scanSet
  | .kbPKeymode m _ => c.kb == .keyMode m
  | .msReset | .msSetdefaults | .msDisable | .msEnable | .msSetrate | .msGetid | .msSetstream | .msStatus
  | .msUnknown _ => c.ms == .idle
  | .msPRate _ => c.ms == .rate
  | .frameEncode _ | .frameDecode _
  | .evMount | .evRxframe _ _ | .evParityerror _ | .evTx _ | .evKbreport _ | .evMsreport _ | .evKbtick | .evMstick
  | .mspkt3 _ _ _ | .mspkt4Wheel3 _ _ _ _ | .mspkt4Wheel5 _ _ _ _ => true

/-! ## Words of the opcode table

The table gives one and the same 8-bit word to a keyboard command, a mouse command and every parameter; it tells them
apart by device and pending state, which a bare word does not carry. A bare byte is read as a command byte of the
keyboard (log entry 9). A packet's first byte stands in the high bits, as the table numbers them. -/

/-- The input that a bare word of the table stands for. -/
def tableInput (nbits w : Nat) : Option Input :=
  if w ≥ 2 ^ nbits then none
  else if nbits = 8 then some (.hostByte .kb (BitVec.ofNat 8 w))
  else if nbits = 11 ∨ nbits = 16 then
    if w < 2 ^ 11 then some (.frameIn (BitVec.ofNat 11 w)) else none
  else if nbits = 24 then
    some (.packet .standard [BitVec.ofNat 8 (w / 2 ^ 16), BitVec.ofNat 8 (w / 2 ^ 8), BitVec.ofNat 8 w])
  else if nbits = 32 then
    let p := [BitVec.ofNat 8 (w / 2 ^ 24), BitVec.ofNat 8 (w / 2 ^ 16), BitVec.ofNat 8 (w / 2 ^ 8), BitVec.ofNat 8 w]
    match decodePacket .wheel3 p with
    | .ok _ => some (.packet .wheel3 p)
    | .reject _ => some (.packet .wheel5 p)
  else none

/-- The instruction the decoder reads from a bare word of the table, no parameter being awaited. -/
def decodeTableWord (nbits w : Nat) : Option Instr :=
  match tableInput nbits w with
  | none => none
  | some input =>
    match decode ⟨.idle, .idle⟩ input with
    | .ok i => some i
    | .reject _ => none

end Sys2Proof
end

