-- ==== Sys2Proof/Machine/State.lean ====
section
/-! DEFINITION. The state record (10_state.md), the reasons a step can stop, and the state after reset (R55). -/

namespace Sys2Proof.Machine

/-- `kb.timer` (R36). -/
inductive TimerPhase where
  | off
  | delay
  | repeating
  deriving DecidableEq, Repr

/-- `ms.mode` (R32). -/
inductive MsMode where
  | idle
  | streaming
  deriving DecidableEq, Repr

/-- The keyboard's registers. -/
structure KbState where
  /-- R34. -/
  enabled : Bool
  /-- R38. -/
  scanCodeSet : ScanSet
  /-- R39, `u32`. -/
  repeatIntervalUs : BitVec 32
  /-- R40, `u16`. -/
  repeatDelayMs : BitVec 16
  /-- R41. -/
  ledMask : Byte
  /-- R22. -/
  heldKey : Option Byte
  /-- R36. -/
  timer : TimerPhase
  /-- R31. -/
  pending : KbPending
  /-- R44, indexed by the set-3 scan code. -/
  keyMode : Vector KeyMode 256
  /-- R23. -/
  prevMods : Byte
  /-- R23. -/
  prevKeys : List Byte
  deriving DecidableEq, Repr

/-- `ms.acc` (R24, R25). The three deltas are `i16`: the range is an invariant (log entry 10). -/
structure MouseAcc where
  dx : Int
  dy : Int
  dwheel : Int
  buttons : Byte
  deriving DecidableEq, Repr

/-- The mouse's registers. -/
structure MsState where
  /-- R32. -/
  mode : MsMode
  /-- R32. -/
  pending : MsPending
  /-- R42. -/
  deviceType : DeviceType
  /-- R43. -/
  sampleRate : Byte
  /-- R26, R83. -/
  window : BitVec 24
  /-- R24, R25. -/
  acc : MouseAcc
  /-- R35. -/
  stationary : Bool
  deriving DecidableEq, Repr

/-- One device's Link and its output trace (41_link.md R161). -/
structure Link where
  /-- The outbound queue, head first (R46). -/
  q : List Packet
  /-- How many bytes of the head packet have been transmitted (R46). -/
  sent : Nat
  /-- R27, R169. -/
  lastByteSent : Option Byte
  /-- `wire(dev)`, oldest frame first (R12). -/
  wire : List Frame
  deriving DecidableEq, Repr

/-- What a combinational row of the table returned (log entry 4). -/
inductive OpResult where
  | frame (f : Frame)
  | decoded (r : Decoded)
  | packet (p : Packet)
  deriving DecidableEq, Repr

/-- The state: the record `S` of R20, the traces of R12, and the model's own fields `cfg`, `schedule` and `result`. -/
structure State where
  /-- The configuration (00_scope.md R7); no step writes it (log entry 2). -/
  cfg : Config
  /-- Whether `Mount` has happened (R420; log entry 7). -/
  mounted : Bool
  kb : KbState
  kbLink : Link
  ms : MsState
  msLink : Link
  /-- The masks passed to `set_leds`, oldest first (R12, R178). -/
  leds : List Byte
  /-- The events the environment raises, next first (R390; log entry 1). -/
  schedule : List Input
  /-- The result of the last combinational row run on its own; no rule reads it (log entry 4). -/
  result : Option OpResult
  deriving DecidableEq, Repr

/-- No fault: "Nothing in this core is fatal: there is no panic/abort path" (30_encoding.md R130, 60 R380; log
entry 19). An error of the spec is a next state. -/
inductive Fault where
  deriving DecidableEq, Repr

/-- The moves the model does not have. Each is an input outside the spec's step relation, so stopping is safe. -/
inductive Refusal where
  /-- An instruction with no meaning yet. Raised by `exec`'s refused arms only (there are none). Safe. -/
  | notModelled (mnemonic : String)
  /-- EV.MOUNT on a mounted block: 93 U13, "refuse". Raised by `execEvMount`. Safe. -/
  | mountedAlready
  /-- Any other event before `Mount`, "the first event of every run" (R420). Raised by `step`. Safe. -/
  | notMounted
  /-- EV.TX of a device whose queue is empty: not enabled, "it is not an error, the link is idle" (R167). Raised by
  `execEvTx`. Safe. -/
  | txNotEnabled (d : Dev)
  /-- EV.TX where the head packet has no byte at `sent`; no reachable state has such a queue (R46, log entry 12).
  Raised by `execEvTx`. Safe. -/
  | noByteAtHead (d : Dev)
  /-- EV.KBTICK while `kb.timer = Off` (R252, R386). Raised by `execEvKbtick`. Safe. -/
  | kbTickNotEnabled
  /-- EV.MSTICK while `ms.mode` is not Streaming (R300, R386). Raised by `execEvMstick`. Safe. -/
  | msTickNotEnabled
  /-- An input the decoder rejects: a malformed report (93 U12) or a word of no row. Raised by `step`. Safe. -/
  | notAnInstruction (e : DecodeError)
  deriving DecidableEq, Repr

/-- What a step answers. -/
abbrev Out := Host.Outcome State Fault Refusal

/-- The keyboard after `Mount` (R55). -/
def KbState.afterMount (cfg : Config) : KbState where
  enabled := true
  scanCodeSet := kbDefaultSet
  repeatIntervalUs := cfg.kbDefaultIntervalUs
  repeatDelayMs := cfg.kbDefaultDelayMs
  ledMask := kbDefaultLeds
  heldKey := none
  timer := .off
  pending := .idle
  keyMode := Vector.replicate 256 keyModeDefault
  prevMods := 0x00
  prevKeys := []

/-- The accumulators cleared. -/
def MouseAcc.zero : MouseAcc := ⟨0, 0, 0, 0x00⟩

/-- The mouse after `Mount` (R55). -/
def MsState.afterMount : MsState where
  mode := .idle
  pending := .idle
  deviceType := .standard
  sampleRate := msDefaultRate
  window := 0x000000
  acc := MouseAcc.zero
  stationary := true

/-- A Link after `Mount` (R55). -/
def Link.empty : Link := ⟨[], 0, none, []⟩

/-- The state right after `Mount` (R55, R420), nothing scheduled, carrying the configuration of log entries 2 and 3. -/
def State.reset : State where
  cfg := sampleConfig
  mounted := true
  kb := KbState.afterMount sampleConfig
  kbLink := Link.empty
  ms := MsState.afterMount
  msLink := Link.empty
  leds := []
  schedule := []
  result := none

end Sys2Proof.Machine
end

