-- ==== Sys2Proof/Machine/Flags.lean ====
section
/-! DEFINITION. The conditions and flags the rules compute: key-event conditions (43 R243, R245, R247), the all-zero test of
a movement packet (45 R306), the promotion test of the handshake (44 R281), the status byte (30 R108). -/

namespace Sys2Proof.Machine

/-- `is_modifier(u)` (R243). -/
def isModifier (u : Byte) : Bool :=
  (List.range 8).any (fun i => u == modUsage i)

/-- The key mode of a usage in set 3, if it has a set-3 code (R44, R245, R247). -/
def modeOfUsage (cfg : Config) (kb : KbState) (u : Byte) : Option KeyMode :=
  (set3Code cfg u).map (fun c => kb.keyMode[c.toNat]'c.isLt)

/-- `repeatable(u, s)` (R245). -/
def repeatable (cfg : Config) (kb : KbState) (u : Byte) (set : ScanSet) : Bool :=
  !isModifier u && u != pauseUsage &&
  (set != .set3 || (modeOfUsage cfg kb u).any (fun m => m.rep))

/-- Whether a release sends its break code (R247). -/
def sendsBreak (cfg : Config) (kb : KbState) (u : Byte) (set : ScanSet) : Bool :=
  set != .set3 || (modeOfUsage cfg kb u).any (fun m => m.brk)

/-- `ms_tail_zero(z, btn, type)` (R306). -/
def msTailZero (z : Int) (btn : Byte) (t : DeviceType) : Bool :=
  match t with
  | .standard => true
  | .wheel3 => z == 0
  | .wheel5 => z == 0 && (btn &&& 0x18) == 0x00

/-- `zero` (R302, R306): no motion and no transmitted button. -/
def allZero (x y z : Int) (btn : Byte) (t : DeviceType) : Bool :=
  x == 0 && y == 0 && msTailZero z btn t && (btn &&& 0x07) == 0x00

/-- The device type after a rate byte (R281), from the type before and the window after. -/
def promote (t : DeviceType) (window : BitVec 24) : DeviceType :=
  match t with
  | .standard => if window = magicWheel3 then .wheel3 else .standard
  | .wheel3 => if window = magicWheel5 then .wheel5 else .wheel3
  | .wheel5 => .wheel5

/-- The first byte of the status reply (R108, R279). -/
def statusByte (mode : MsMode) : Byte :=
  match mode with
  | .streaming => 0x20
  | .idle => 0x00

end Sys2Proof.Machine
end

