-- ==== Sys2Proof/Machine/Ops.lean ====
section
/-! DEFINITION. The shared operations over the state: the Link calls `enqueue` and `flush` (41_link.md R163, R165), the LED
sink (R178), the only exception (60_exceptions.md R381), and the helper procedures of the two interpreters
(42 R208, 44 R283). There is no return from an exception: "There is no trap return, no handler and no nesting" (R394). -/

namespace Sys2Proof.Machine

/-- The Link of a device. -/
def State.link (s : State) : Dev → Link
  | .kb => s.kbLink
  | .ms => s.msLink

/-- Write the Link of a device. -/
def State.setLink (s : State) (d : Dev) (l : Link) : State :=
  match d with
  | .kb => { s with kbLink := l }
  | .ms => { s with msLink := l }

/-- Write the keyboard's registers. -/
def State.setKb (s : State) (k : KbState) : State := { s with kb := k }

/-- Write the mouse's registers. -/
def State.setMs (s : State) (m : MsState) : State := { s with ms := m }

/-- `is_busy(dev)`: "constantly `false` between events" (R166; log entry 17). No rule reads it. -/
def isBusy (_d : Dev) (_s : State) : Bool := false

/-- `enqueue(dev, bytes)` (R163): the new state, and whether the packet was accepted. -/
def enqueue (d : Dev) (p : Packet) (s : State) : State × Bool :=
  if p = [] then (s, true)
  else if s.cfg.qcap.val ≤ (s.link d).q.length then (s, false)
  else (s.setLink d { s.link d with q := (s.link d).q ++ [p] }, true)

/-- `enqueue` by a caller that ignores a rejection (R164). -/
def send (d : Dev) (p : Packet) (s : State) : State := (enqueue d p s).1

/-- `ack(dev)`, here `sendAck` (R10, R191). -/
def sendAck (d : Dev) (s : State) : State := send d [ackByte] s

/-- `flush(dev)` (R165). -/
def flush (d : Dev) (s : State) : State :=
  s.setLink d { s.link d with q := [], sent := 0 }

/-- `set_leds(m)` (R178). -/
def setLeds (m : Byte) (s : State) : State := { s with leds := s.leds ++ [m] }

/-- `raise ParityError(dev)` (R381), the one exception: the reply `0xFE`, and nothing else. -/
def raiseParityError (d : Dev) (s : State) : State := send d [resendByte] s

/-! ## Keyboard procedures (R208) -/

/-- `kb_restore_typematic_led()`. -/
def kbRestoreTypematicLed (s : State) : State :=
  setLeds kbDefaultLeds (s.setKb { s.kb with
    repeatIntervalUs := s.cfg.kbDefaultIntervalUs
    repeatDelayMs := s.cfg.kbDefaultDelayMs
    ledMask := kbDefaultLeds })

/-- `kb_cancel_repeat()`. -/
def kbCancelRepeat (s : State) : State :=
  s.setKb { s.kb with heldKey := none, timer := .off }

/-- `for c in 0..255: kb.key_mode[c] <- m`. -/
def kbSetAllKeyModes (m : KeyMode) (s : State) : State :=
  s.setKb { s.kb with keyMode := Vector.replicate 256 m }

/-- `kb_clear_key_modes()`. -/
def kbClearKeyModes (s : State) : State := kbSetAllKeyModes keyModeDefault s

/-- `kb.key_mode[c] <- m`. -/
def kbSetKeyMode (c : Byte) (m : KeyMode) (s : State) : State :=
  s.setKb { s.kb with keyMode := s.kb.keyMode.set c.toNat m c.isLt }

/-- `kb.pending <- p`. -/
def kbSetPending (p : KbPending) (s : State) : State :=
  s.setKb { s.kb with pending := p }

/-- The gate of the set-3 commands (R206): outside set 3 the byte is only acknowledged. -/
def set3Only (accepted : State → State) (s : State) : State :=
  if s.kb.scanCodeSet ≠ .set3 then sendAck .kb s else accepted s

/-! ## Mouse procedures (R283) -/

/-- `ms_defaults()`. -/
def msDefaults (s : State) : State :=
  s.setMs { s.ms with
    acc := MouseAcc.zero
    deviceType := .standard
    sampleRate := msDefaultRate
    mode := .idle
    window := 0x000000
    stationary := true
    pending := .idle }

end Sys2Proof.Machine
end

