-- ==== Sys2Proof/Machine/Formats.lean ====
section
/-! DEFINITION. The rows of spaces frame and ms.packet as instructions: pure functions (40_frame_codec.md R140, R143, R144;
45_mouse_streaming.md R305). They write no state of the block; what they return is left in `result` (log entry 4). -/

namespace Sys2Proof.Machine

/-- Leave a returned value where it can be seen. -/
def returning (r : OpResult) (s : State) : State := { s with result := some r }

/-- FRAME.ENCODE (R143). -/
def execFrameEncode (b : Byte) (s : State) : Out := .next (returning (.frame (encodeFrame b)) s)

/-- FRAME.DECODE (R144). -/
def execFrameDecode (f : Frame) (s : State) : Out := .next (returning (.decoded (decodeFrame f)) s)

/-- MSPKT3: `ms_packet` under `Standard` (R305), which sends no wheel. -/
def execMspkt3 (btn : BitVec 3) (x y : BitVec 8) (s : State) : Out :=
  .next (returning (.packet (msPacket x.toInt y.toInt 0 (btn.setWidth 8) .standard)) s)

/-- MSPKT4.WHEEL3 (R305). -/
def execMspkt4Wheel3 (btn : BitVec 3) (x y : BitVec 8) (z : BitVec 4) (s : State) : Out :=
  .next (returning (.packet (msPacket x.toInt y.toInt z.toInt (btn.setWidth 8) .wheel3)) s)

/-- MSPKT4.WHEEL5 (R305). -/
def execMspkt4Wheel5 (btn : BitVec 5) (x y : BitVec 8) (z : BitVec 4) (s : State) : Out :=
  .next (returning (.packet (msPacket x.toInt y.toInt z.toInt (btn.setWidth 8) .wheel5)) s)

end Sys2Proof.Machine
end

