-- ==== Sys2Proof/Machine/KeyEvents.lean ====
section
/-! DEFINITION. Key events and the typematic repeat (43_keyboard_keys_typematic.md), and the keyboard report
(46_hid_keyboard_differencer.md R334). -/

namespace Sys2Proof.Machine

/-- `kb_press(u, s)` (R244). A rejected enqueue loses the code; the arming still happens. -/
def kbPress (u : Byte) (set : ScanSet) (s : State) : State :=
  if makeCode s.cfg set u = [] then s
  else
    let t := send .kb (makeCode s.cfg set u) s
    if repeatable s.cfg s.kb u set then t.setKb { t.kb with heldKey := some u, timer := .delay } else t

/-- `kb_release(u, s)` (R247). -/
def kbRelease (u : Byte) (set : ScanSet) (s : State) : State :=
  let t := if sendsBreak s.cfg s.kb u set then send .kb (breakCode s.cfg set u) s else s
  if s.kb.heldKey = some u then kbCancelRepeat t else t

/-- `kb_key(u, pressed)` (R242): a disabled keyboard drops the event whole. -/
def kbKey (u : Byte) (pressed : Bool) (s : State) : State :=
  if !s.kb.enabled then s
  else if pressed then kbPress u s.kb.scanCodeSet s
  else kbRelease u s.kb.scanCodeSet s

/-- The key events of one report, consumed in order (R240, R248). -/
def kbKeys (es : List KeyEvent) (s : State) : State :=
  es.foldl (fun s e => kbKey e.usage e.pressed s) s

/-- EV.KBREPORT (R334): the previous report is replaced unconditionally, after the events. -/
def execEvKbreport (r : KbReport) (s : State) : Out :=
  let n := normReport s.cfg.nkroLayout r
  let t := kbKeys (diffEvents s.kb.prevMods s.kb.prevKeys n) s
  .next (t.setKb { t.kb with prevMods := n.mods, prevKeys := n.keys })

/-- EV.KBTICK (R252): the make code of the held key in the set active now. Where the timer is armed there is a held key
(R50(a)); a state with none has nothing to send (log entry 11). -/
def execEvKbtick (s : State) : Out :=
  if s.kb.timer = .off then .refused .kbTickNotEnabled
  else
    let t :=
      match s.kb.heldKey with
      | some u => if s.kb.enabled then send .kb (makeCode s.cfg s.kb.scanCodeSet u) s else s
      | none => s
    .next (t.setKb { t.kb with timer := .repeating })

end Sys2Proof.Machine
end

