-- ==== Sys2Proof/Machine/KbCommands.lean ====
section
/-! DEFINITION. The keyboard's commands (42_keyboard_commands.md sections 2 to 5), one definition per instruction. -/

namespace Sys2Proof.Machine

/-- KB.RESET (R192): flush first, so that the reply always fits. -/
def execKbReset (s : State) : Out :=
  let s := kbRestoreTypematicLed (flush .kb s)
  let s := s.setKb { s.kb with scanCodeSet := kbDefaultSet, enabled := true }
  let s := kbSetPending .idle (kbClearKeyModes (kbCancelRepeat s))
  .next (send .kb ([ackByte, selfTestByte] ++ s.cfg.kbResetId) s)

/-- KB.RESEND (R193): the last byte transmitted, nothing before any was. -/
def execKbResend (s : State) : Out :=
  match s.kbLink.lastByteSent with
  | some b => .next (send .kb [b] s)
  | none => .next s

/-- KB.ECHO (R194). -/
def execKbEcho (s : State) : Out := .next (send .kb [echoByte] s)

/-- KB.READID (R195). -/
def execKbReadid (s : State) : Out := .next (send .kb kbId s)

/-- KB.ENABLE (R197). -/
def execKbEnable (s : State) : Out :=
  .next (sendAck .kb (s.setKb { s.kb with enabled := true }))

/-- KB.DISABLE (R198). -/
def execKbDisable (s : State) : Out :=
  .next (sendAck .kb (kbCancelRepeat (kbRestoreTypematicLed (s.setKb { s.kb with enabled := false }))))

/-- KB.SETDEFAULTS (R199). -/
def execKbSetdefaults (s : State) : Out :=
  let s := kbRestoreTypematicLed s
  let s := s.setKb { s.kb with scanCodeSet := kbDefaultSet, enabled := true }
  .next (sendAck .kb (kbCancelRepeat s))

/-- KB.SETLEDS (R200). -/
def execKbSetleds (s : State) : Out := .next (sendAck .kb (kbSetPending .led s))

/-- KB.SETTYPEMATIC (R201). -/
def execKbSettypematic (s : State) : Out := .next (sendAck .kb (kbSetPending .typematic s))

/-- KB.SETSCANSET (R202). -/
def execKbSetscanset (s : State) : Out := .next (sendAck .kb (kbSetPending .scanSet s))

/-- KB.ALLTYPEMATIC (R210). -/
def execKbAlltypematic (s : State) : Out :=
  .next (set3Only (fun s => sendAck .kb (kbSetAllKeyModes ⟨false, true⟩ s)) s)

/-- KB.ALLMAKEBREAK (R211). -/
def execKbAllmakebreak (s : State) : Out :=
  .next (set3Only (fun s => sendAck .kb (kbSetAllKeyModes ⟨true, false⟩ s)) s)

/-- KB.ALLMAKE (R212). -/
def execKbAllmake (s : State) : Out :=
  .next (set3Only (fun s => sendAck .kb (kbSetAllKeyModes ⟨false, false⟩ s)) s)

/-- KB.ALLTMB (R213). -/
def execKbAlltmb (s : State) : Out :=
  .next (set3Only (fun s => sendAck .kb (kbSetAllKeyModes ⟨true, true⟩ s)) s)

/-- KB.KEYTYPEMATIC (R207, R214). -/
def execKbKeytypematic (s : State) : Out :=
  .next (set3Only (fun s => sendAck .kb (kbSetPending (.keyMode .makeTypematic) s)) s)

/-- KB.KEYMAKEBREAK (R207, R215). -/
def execKbKeymakebreak (s : State) : Out :=
  .next (set3Only (fun s => sendAck .kb (kbSetPending (.keyMode .makeBreak) s)) s)

/-- KB.KEYMAKE (R207, R216). -/
def execKbKeymake (s : State) : Out :=
  .next (set3Only (fun s => sendAck .kb (kbSetPending (.keyMode .make) s)) s)

/-- KB.UNKNOWN (R218): the same answer for every such byte. -/
def execKbUnknown (_b : Byte) (s : State) : Out :=
  match s.cfg.unknownPolicy with
  | .ack => .next (sendAck .kb s)
  | .resend => .next (send .kb [resendByte] s)

end Sys2Proof.Machine
end

