-- ==== Sys2Proof/Machine/KbParams.lean ====
section
/-! DEFINITION. The keyboard's parameter bytes (42_keyboard_commands.md section 3 and R217). -/

namespace Sys2Proof.Machine

/-- KB.P.LED (R203): all eight bits as received. -/
def execKbPLed (mask : Byte) (s : State) : Out :=
  let s := setLeds mask (s.setKb { s.kb with ledMask := mask })
  .next (sendAck .kb (kbSetPending .idle s))

/-- KB.P.TYPEMATIC (R204): bit 7 is ignored. -/
def execKbPTypematic (_ignored : BitVec 1) (delay : BitVec 2) (rate : BitVec 5) (s : State) : Out :=
  let s := s.setKb { s.kb with repeatIntervalUs := rateOf s.cfg rate, repeatDelayMs := delayOf delay }
  .next (sendAck .kb (kbSetPending .idle s))

/-- `kb.scan_code_set <- set`. -/
def kbSelectSet (set : ScanSet) (s : State) : State :=
  s.setKb { s.kb with scanCodeSet := set }

/-- KB.P.SCANSET (R205): 0 queries, without an ACK; 3 also clears the key modes; above 3 selects set 2. -/
def execKbPScanset (n : Byte) (s : State) : Out :=
  let s := kbSetPending .idle s
  if n = 0x00 then .next (send .kb [scanSetNumber s.kb.scanCodeSet] s)
  else if n = 0x01 then .next (sendAck .kb (kbSelectSet .set1 s))
  else if n = 0x02 then .next (sendAck .kb (kbSelectSet .set2 s))
  else if n = 0x03 then .next (sendAck .kb (kbClearKeyModes (kbSelectSet .set3 s)))
  else .next (sendAck .kb (kbSelectSet .set2 s))

/-- KB.P.KEYMODE (R217). -/
def execKbPKeymode (m : KeySel) (code : Byte) (s : State) : Out :=
  .next (sendAck .kb (kbSetPending .idle (kbSetKeyMode code (keyModeOf m) s)))

end Sys2Proof.Machine
end

