-- ==== Sys2Proof/Machine/MsCommands.lean ====
section
/-! DEFINITION. The mouse's commands and its rate parameter (44_mouse_commands.md). Every reply begins with ACK (R271). -/

namespace Sys2Proof.Machine

/-- MS.RESET (R272): the id is read after the type has been set to `Standard`. -/
def execMsReset (s : State) : Out :=
  let s := msDefaults (flush .ms s)
  .next (send .ms [ackByte, selfTestByte, msId s.cfg s.ms.deviceType] s)

/-- MS.SETDEFAULTS (R273): no flush, ACK alone. -/
def execMsSetdefaults (s : State) : Out := .next (sendAck .ms (msDefaults s))

/-- `ms.mode <- m`. -/
def msSetMode (m : MsMode) (s : State) : State := s.setMs { s.ms with mode := m }

/-- MS.DISABLE (R274). -/
def execMsDisable (s : State) : Out := .next (sendAck .ms (msSetMode .idle s))

/-- MS.SETSTREAM (R275). -/
def execMsSetstream (s : State) : Out := .next (sendAck .ms (msSetMode .idle s))

/-- MS.ENABLE (R276). -/
def execMsEnable (s : State) : Out := .next (sendAck .ms (msSetMode .streaming s))

/-- MS.SETRATE (R277). -/
def execMsSetrate (s : State) : Out := .next (sendAck .ms (s.setMs { s.ms with pending := .rate }))

/-- MS.GETID (R278). -/
def execMsGetid (s : State) : Out := .next (send .ms [ackByte, msId s.cfg s.ms.deviceType] s)

/-- MS.STATUS (R279). -/
def execMsStatus (s : State) : Out :=
  .next (send .ms [ackByte, statusByte s.ms.mode, msResolution, s.ms.sampleRate] s)

/-- MS.UNKNOWN (R280, R284). -/
def execMsUnknown (_b : Byte) (s : State) : Out := .next (sendAck .ms s)

/-- MS.P.RATE (R281): the new rate, pushed into the window, which may complete a handshake. -/
def execMsPRate (rate : Byte) (s : State) : Out :=
  let w := pushWindow s.ms.window rate
  .next (sendAck .ms (s.setMs { s.ms with
    sampleRate := rate
    window := w
    deviceType := promote s.ms.deviceType w
    pending := .idle }))

end Sys2Proof.Machine
end

