-- ==== Sys2Proof/Machine/LinkEvents.lean ====
section
/-! DEFINITION. The Link's events: a transmitted byte (41_link.md R167), a received frame (R170) with the dispatch of the two
interpreters (42 R190, 44 R270), a parity error (60 R381), and `Mount` (70 R420). -/

namespace Sys2Proof.Machine

/-- One byte leaves the head packet `p`; its last byte takes the packet out of the queue (R167). -/
def linkAfterTx (l : Link) (p : Packet) (rest : List Packet) (b : Byte) : Link where
  wire := l.wire ++ [encodeFrame b]
  lastByteSent := some b
  sent := if l.sent + 1 = p.length then 0 else l.sent + 1
  q := if l.sent + 1 = p.length then rest else p :: rest

/-- EV.TX (R167). -/
def execEvTx (d : Dev) (s : State) : Out :=
  match (s.link d).q with
  | [] => .refused (.txNotEnabled d)
  | p :: rest =>
    match p[(s.link d).sent]? with
    | none => .refused (.noByteAtHead d)
    | some b => .next (s.setLink d (linkAfterTx (s.link d) p rest b))

/-- EV.PARITYERROR (R381). -/
def execEvParityerror (d : Dev) (s : State) : Out := .next (raiseParityError d s)

/-- The commands of `kb_byte(b)` with `kb.pending = none` (R190). -/
def kbCommand (b : Byte) (s : State) : Out :=
  if b = 0xFF then execKbReset s
  else if b = 0xFE then execKbResend s
  else if b = 0xEE then execKbEcho s
  else if b = 0xF2 then execKbReadid s
  else if b = 0xF4 then execKbEnable s
  else if b = 0xF5 then execKbDisable s
  else if b = 0xF6 then execKbSetdefaults s
  else if b = 0xED then execKbSetleds s
  else if b = 0xF3 then execKbSettypematic s
  else if b = 0xF0 then execKbSetscanset s
  else if b = 0xF7 then execKbAlltypematic s
  else if b = 0xF8 then execKbAllmakebreak s
  else if b = 0xF9 then execKbAllmake s
  else if b = 0xFA then execKbAlltmb s
  else if b = 0xFB then execKbKeytypematic s
  else if b = 0xFC then execKbKeymakebreak s
  else if b = 0xFD then execKbKeymake s
  else execKbUnknown b s

/-- `kb_byte(b)` (R190). -/
def kbByte (b : Byte) (s : State) : Out :=
  match s.kb.pending with
  | .led => execKbPLed b s
  | .typematic => execKbPTypematic (typematicIgnored b) (typematicDelay b) (typematicRate b) s
  | .scanSet => execKbPScanset b s
  | .keyMode m => execKbPKeymode m b s
  | .idle => kbCommand b s

/-- The commands of `ms_byte(b)` with `ms.pending = none` (R270). -/
def msCommand (b : Byte) (s : State) : Out :=
  if b = 0xFF then execMsReset s
  else if b = 0xF6 then execMsSetdefaults s
  else if b = 0xF5 then execMsDisable s
  else if b = 0xEA then execMsSetstream s
  else if b = 0xF4 then execMsEnable s
  else if b = 0xF3 then execMsSetrate s
  else if b = 0xF2 then execMsGetid s
  else if b = 0xE9 then execMsStatus s
  else execMsUnknown b s

/-- `ms_byte(b)` (R270). -/
def msByte (b : Byte) (s : State) : Out :=
  match s.ms.pending with
  | .rate => execMsPRate b s
  | .idle => msCommand b s

/-- EV.RXFRAME (R170). -/
def execEvRxframe (d : Dev) (f : Frame) (s : State) : Out :=
  match decodeFrame f with
  | .parityError => .next (raiseParityError d s)
  | .ok b =>
    match d with
    | .kb => kbByte b s
    | .ms => msByte b s

/-- EV.MOUNT (R420): every field of R55, the traces empty, nothing sent; once only (93 U13). The configuration and what
the environment will do next are not the block's. -/
def execEvMount (s : State) : Out :=
  if s.mounted then .refused .mountedAlready
  else
    .next { s with
      mounted := true
      kb := KbState.afterMount s.cfg
      kbLink := Link.empty
      ms := MsState.afterMount
      msLink := Link.empty
      leds := []
      result := none }

end Sys2Proof.Machine
end

