-- ==== Sys2Proof/Machine/MsMotion.lean ====
section
/-! DEFINITION. The mouse report (47_hid_mouse_differencer.md) and the streaming tick (45_mouse_streaming.md). -/

namespace Sys2Proof.Machine

/-- `ms_report_boot` (R363). -/
def accBoot (a : MouseAcc) (b0 b1 b2 b3 : Byte) : MouseAcc where
  buttons := b0
  dx := sat16 (a.dx + sext8 b1)
  dy := sat16 (a.dy + sext8 b2)
  dwheel := sat16 (a.dwheel + sext8 b3)

/-- `ms_report_extracted` (R364): each contribution is clamped to the signed 8-bit range. -/
def accExtracted (a : MouseAcc) (buttons : Byte) (dx dy dw : Int) : MouseAcc where
  buttons := buttons &&& 0x1F
  dx := sat16 (a.dx + clamp dx (-128) 127)
  dy := sat16 (a.dy + clamp dy (-128) 127)
  dwheel := sat16 (a.dwheel + clamp dw (-128) 127)

/-- EV.MSREPORT (R362, R368): only the accumulator changes. -/
def execEvMsreport (r : MsReport) (s : State) : Out :=
  match r with
  | .boot b0 b1 b2 b3 => .next (s.setMs { s.ms with acc := accBoot s.ms.acc b0 b1 b2 b3 })
  | .extracted b dx dy dw => .next (s.setMs { s.ms with acc := accExtracted s.ms.acc b dx dy dw })

/-- The body of `MsTick` (R302): suppressed, rejected by a full queue (nothing changes), or sent and drained. -/
def msTick (s : State) : State :=
  let a := s.ms.acc
  let x := clamp a.dx s.cfg.xyMin s.cfg.xyMax
  let y := clamp a.dy s.cfg.xyMin s.cfg.xyMax
  let z := clamp a.dwheel s.cfg.zMin s.cfg.zMax
  let zero := allZero x y z a.buttons s.ms.deviceType
  if zero && s.ms.stationary then
    if s.ms.deviceType = .standard then s.setMs { s.ms with acc := { a with dwheel := a.dwheel - z } } else s
  else
    match enqueue .ms (msPacket x y z a.buttons s.ms.deviceType) s with
    | (_, false) => s
    | (t, true) =>
      t.setMs { t.ms with
        acc := { a with dx := a.dx - x, dy := a.dy - y, dwheel := a.dwheel - z }
        stationary := zero }

/-- EV.MSTICK (R300, R302): enabled exactly while streaming. -/
def execEvMstick (s : State) : Out :=
  if s.ms.mode ≠ .streaming then .refused .msTickNotEnabled else .next (msTick s)

end Sys2Proof.Machine
end

