-- ==== Sys2Proof/Machine/Dispatch.lean ====
section
/-! DEFINITION. exec: one arm per constructor of Instr, one direct call each. -/

namespace Sys2Proof.Machine

def exec (i : Instr) (s : State) : Host.Outcome State Fault Refusal :=
  match i with
  -- space frame
  | .frameEncode b => Sys2Proof.Machine.execFrameEncode b s
  | .frameDecode f => Sys2Proof.Machine.execFrameDecode f s
  -- space kb.command
  | .kbReset => Sys2Proof.Machine.execKbReset s
  | .kbResend => Sys2Proof.Machine.execKbResend s
  | .kbKeymake => Sys2Proof.Machine.execKbKeymake s
  | .kbKeymakebreak => Sys2Proof.Machine.execKbKeymakebreak s
  | .kbKeytypematic => Sys2Proof.Machine.execKbKeytypematic s
  | .kbAlltmb => Sys2Proof.Machine.execKbAlltmb s
  | .kbAllmake => Sys2Proof.Machine.execKbAllmake s
  | .kbAllmakebreak => Sys2Proof.Machine.execKbAllmakebreak s
  | .kbAlltypematic => Sys2Proof.Machine.execKbAlltypematic s
  | .kbSetdefaults => Sys2Proof.Machine.execKbSetdefaults s
  | .kbDisable => Sys2Proof.Machine.execKbDisable s
  | .kbEnable => Sys2Proof.Machine.execKbEnable s
  | .kbSettypematic => Sys2Proof.Machine.execKbSettypematic s
  | .kbReadid => Sys2Proof.Machine.execKbReadid s
  | .kbSetscanset => Sys2Proof.Machine.execKbSetscanset s
  | .kbEcho => Sys2Proof.Machine.execKbEcho s
  | .kbSetleds => Sys2Proof.Machine.execKbSetleds s
  | .kbUnknown b => Sys2Proof.Machine.execKbUnknown b s
  -- space kb.param
  | .kbPLed mask => Sys2Proof.Machine.execKbPLed mask s
  | .kbPTypematic ignored delay rate => Sys2Proof.Machine.execKbPTypematic ignored delay rate s
  | .kbPScanset n => Sys2Proof.Machine.execKbPScanset n s
  | .kbPKeymode m code => Sys2Proof.Machine.execKbPKeymode m code s
  -- space ms.command
  | .msReset => Sys2Proof.Machine.execMsReset s
  | .msSetdefaults => Sys2Proof.Machine.execMsSetdefaults s
  | .msDisable => Sys2Proof.Machine.execMsDisable s
  | .msEnable => Sys2Proof.Machine.execMsEnable s
  | .msSetrate => Sys2Proof.Machine.execMsSetrate s
  | .msGetid => Sys2Proof.Machine.execMsGetid s
  | .msSetstream => Sys2Proof.Machine.execMsSetstream s
  | .msStatus => Sys2Proof.Machine.execMsStatus s
  | .msUnknown b => Sys2Proof.Machine.execMsUnknown b s
  -- space ms.param
  | .msPRate rate => Sys2Proof.Machine.execMsPRate rate s
  -- space event
  | .evMount => Sys2Proof.Machine.execEvMount s
  | .evRxframe d f => Sys2Proof.Machine.execEvRxframe d f s
  | .evParityerror d => Sys2Proof.Machine.execEvParityerror d s
  | .evTx d => Sys2Proof.Machine.execEvTx d s
  | .evKbreport r => Sys2Proof.Machine.execEvKbreport r s
  | .evMsreport r => Sys2Proof.Machine.execEvMsreport r s
  | .evKbtick => Sys2Proof.Machine.execEvKbtick s
  | .evMstick => Sys2Proof.Machine.execEvMstick s
  -- space ms.packet
  | .mspkt3 btn x y => Sys2Proof.Machine.execMspkt3 btn x y s
  | .mspkt4Wheel3 btn x y z => Sys2Proof.Machine.execMspkt4Wheel3 btn x y z s
  | .mspkt4Wheel5 btn x y z => Sys2Proof.Machine.execMspkt4Wheel5 btn x y z s

end Sys2Proof.Machine
end

