-- ==== Sys2Proof/Machine/Fetch.lean ====
section
/-! DEFINITION. Fetching: the next event the environment raises, and the context it is decoded in (30_encoding.md R104). -/

namespace Sys2Proof.Machine

/-- The pending states, which decide what an inbound byte means. -/
def fetchCtx (s : State) : DecodeCtx := ⟨s.kb.pending, s.ms.pending⟩

/-- The next input and the state with it taken from the schedule; none where nothing is scheduled. -/
def fetchInput (s : State) : Option (Input × State) :=
  match s.schedule with
  | [] => none
  | w :: rest => some (w, { s with schedule := rest })

/-- Whether an input may come now: `Mount` is "the first event of every run" (R420). -/
def mayCome (s : State) (w : Input) : Bool := s.mounted || w == .mount

/-- What placing a bare word before the next fetch takes (log entry 9): the input at the head of the schedule, a mounted
block, and for a byte, which is read as a command, no parameter awaited by the keyboard. -/
def placeInput (s : State) (w : Input) : State :=
  match w with
  | .hostByte .kb _ =>
    { s with schedule := w :: s.schedule, mounted := true, kb := { s.kb with pending := .idle } }
  | _ => { s with schedule := w :: s.schedule, mounted := true }

end Sys2Proof.Machine
end

