-- ==== Sys2Proof/Machine/Step.lean ====
section
/-! DEFINITION. One step: the next event of the schedule, decoded in the present state and executed whole (00_scope.md R11).
With nothing scheduled the block waits (20_memory.md R74). -/

namespace Sys2Proof.Machine

/-- One step. -/
def step (s : State) : Host.Outcome State Fault Refusal :=
  match fetchInput s with
  | none => .next s
  | some (w, t) =>
    if mayCome s w then
      match decode (fetchCtx s) w with
      | .ok i => exec i t
      | .reject e => .refused (.notAnInstruction e)
    else .refused .notMounted

/-- The state with a bare word of the opcode table placed where the next step fetches (log entry 9). -/
def State.withFetchWord (s : State) (nbits w : Nat) : State :=
  match tableInput nbits w with
  | none => s
  | some input => placeInput s input

end Sys2Proof.Machine
end

