-- ==== Sys2Proof/Safety.lean ====
section
/-! DEFINITION. The vocabulary of the statements: the invariants of 10_state.md R50, the queue after an `enqueue` (41 R163),
the stream of a Link (20 R92), and which instructions are a device's reset. A run is safe where every state meets `StateInv`. -/

namespace Sys2Proof.Machine

/-- The queue of device `d` after `enqueue(d, p)` in state `s`: the packet whole at the tail, or nothing where the packet is
empty or the queue full (R163). -/
def queueAfter (s : State) (d : Dev) (p : Packet) : List Packet :=
  if p ≠ [] ∧ (s.link d).q.length < s.cfg.qcap.val then (s.link d).q ++ [p] else (s.link d).q

/-- R50(e): at most `QCAP` packets, none empty, and `sent` inside the head packet, or 0 where there is none. -/
structure Link.Wf (cap : Nat) (l : Link) : Prop where
  length_le : l.q.length ≤ cap
  nonempty : ∀ p ∈ l.q, p ≠ []
  sent_lt : ∀ p rest, l.q = p :: rest → l.sent < p.length
  sent_zero : l.q = [] → l.sent = 0

/-- R50(a), (b), (c) of the held key, and R23 of the previous report. The set in (b) is the one that was active when the
key was pressed, which the state does not remember. -/
structure KbState.Wf (cfg : Config) (k : KbState) : Prop where
  timer_off_iff : k.timer = .off ↔ k.heldKey = none
  held_makes : ∀ u, k.heldKey = some u → isModifier u = false ∧ u ≠ pauseUsage ∧ ∃ set, makeCode cfg set u ≠ []
  disabled_holds_none : k.enabled = false → k.heldKey = none
  prev_nodup : k.prevKeys.Nodup
  prev_nonzero : (0x00 : Byte) ∉ k.prevKeys

/-- R50(f): the accumulators are `i16`. -/
structure MouseAcc.Wf (a : MouseAcc) : Prop where
  dx_range : -32768 ≤ a.dx ∧ a.dx ≤ 32767
  dy_range : -32768 ≤ a.dy ∧ a.dy ≤ 32767
  dwheel_range : -32768 ≤ a.dwheel ∧ a.dwheel ≤ 32767

/-- The invariant of the block (R50; (g) is in the type of `scanCodeSet`, (d) is about two states). -/
structure StateInv (s : State) : Prop where
  kbLink : s.kbLink.Wf s.cfg.qcap.val
  msLink : s.msLink.Wf s.cfg.qcap.val
  kb : s.kb.Wf s.cfg
  acc : s.ms.acc.Wf

/-- Everything a Link has put on the wire and still has to, in order: the wire, then the frames of the bytes waiting. -/
def Link.stream (l : Link) : List Frame :=
  l.wire ++ (l.q.flatten.drop l.sent).map encodeFrame

/-- The byte an instruction delivers to device `d`, if it is a reception of a valid frame. -/
def delivered (i : Instr) (d : Dev) : Option Byte :=
  match i with
  | .evRxframe d' f =>
    if d' = d then
      match decodeFrame f with
      | .ok b => some b
      | .parityError => none
    else none
  | _ => none

/-- Whether `i`, in state `s`, is the keyboard's reset: the command itself, or `0xFF` received with no parameter awaited
(R192, R111). -/
def resetsKb (i : Instr) (s : State) : Bool :=
  i == .kbReset || (delivered i .kb == some 0xFF && s.kb.pending == .idle)

/-- Whether `i`, in state `s`, is the mouse's reset (R272, R121). -/
def resetsMs (i : Instr) (s : State) : Bool :=
  i == .msReset || (delivered i .ms == some 0xFF && s.ms.pending == .idle)

/-- Whether `i`, in state `s`, is the mouse's set-defaults (R273). -/
def defaultsMs (i : Instr) (s : State) : Bool :=
  i == .msSetdefaults || (delivered i .ms == some 0xF6 && s.ms.pending == .idle)

/-- Whether `i`, in state `s`, resets device `d`, the one thing that flushes its queue (R95). -/
def resetsDev (d : Dev) (i : Instr) (s : State) : Bool :=
  match d with
  | .kb => resetsKb i s
  | .ms => resetsMs i s

/-- The order `Standard < Wheel3 < Wheel5` (R42, R50(d)). -/
def deviceRank : DeviceType → Nat
  | .standard => 0
  | .wheel3 => 1
  | .wheel5 => 2

/-- Whether an instruction acts on device `d`: a byte or event of that device, or its reports and ticks. `Mount` acts on
both, a combinational row on neither (R20, R405). -/
def actsOn (i : Instr) (d : Dev) : Bool :=
  match i with
  | .evMount => true
  | .evRxframe d' _ | .evParityerror d' | .evTx d' => d' == d
  | .kbReset | .kbResend | .kbKeymake | .kbKeymakebreak | .kbKeytypematic | .kbAlltmb | .kbAllmake | .kbAllmakebreak
  | .kbAlltypematic | .kbSetdefaults | .kbDisable | .kbEnable | .kbSettypematic | .kbReadid | .kbSetscanset | .kbEcho
  | .kbSetleds | .kbUnknown _ | .kbPLed _ | .kbPTypematic _ _ _ | .kbPScanset _ | .kbPKeymode _ _
  | .evKbreport _ | .evKbtick => d == .kb
  | .msReset | .msSetdefaults | .msDisable | .msEnable | .msSetrate | .msGetid | .msSetstream | .msStatus
  | .msUnknown _ | .msPRate _ | .evMsreport _ | .evMstick => d == .ms
  | .frameEncode _ | .frameDecode _ | .mspkt3 _ _ _ | .mspkt4Wheel3 _ _ _ _ | .mspkt4Wheel5 _ _ _ _ => false

end Sys2Proof.Machine
end

