-- ==== Sys2Proof/Certificates/Slice0/Obligations.lean ====
section
/-! DEFINITION. The statements for the provers, from the numbered rules of spec/. A result is stated as the whole next state,
so that everything the rule does not name is unchanged: registers, the other device, both wires, the LED trace, the
schedule. `queueAfter s d p` is the queue of `d` after `enqueue(d, p)` (41_link.md R163): a full queue loses the packet.
Many rules carry the spec's own mark of a decision: a docstring names it, as in "R198 (D13)". Such a statement says what the
rule says, and rests on the spec's own choice of 92_eei_decisions.md (log entry 20), not on its source. -/

open Sys2Proof Sys2Proof.Machine

/-! ## The frame codec (40_frame_codec.md) -/

/-- R143: `encode(b) = 1024 + 512·parity(b) + 2·b`, and no state of the block is written. That the returned frame is put
into the field `result` is the model's choice (log entry 4). -/
def Obligations.FrameEncodeReturnsTheFrame : Prop :=
  ∀ (s : State) (b : Byte), ∃ f : Frame,
    exec (.frameEncode b) s = .next { s with result := some (.frame f) } ∧
    f.toNat = 1024 + 512 * (if ((List.range 8).countP b.getLsbD) % 2 = 0 then 1 else 0) + 2 * b.toNat

/-- R144 (D5): a byte exactly when the start bit is 0, the stop bit 1 and the parity bit that of the data. That the
answer is put into the field `result` is the model's choice (log entry 4). -/
def Obligations.FrameDecodeChecksStartStopAndParity : Prop :=
  ∀ (s : State) (f : Frame), ∃ r : Decoded,
    exec (.frameDecode f) s = .next { s with result := some (.decoded r) } ∧
    ∀ b : Byte, r = .ok b ↔
      f.getLsbD 0 = false ∧ f.getLsbD 10 = true ∧
      (f.getLsbD 9 = true ↔ ((List.range 8).countP (fun i => f.getLsbD (i + 1))) % 2 = 0) ∧
      ∀ i, i < 8 → b.getLsbD i = f.getLsbD (i + 1)

/-- R145: round trip in both directions, and exactly 256 frames decode. -/
def Obligations.FramesRoundTrip : Prop :=
  (∀ b : Byte, decodeFrame (encodeFrame b) = .ok b) ∧
  (∀ (f : Frame) (b : Byte), decodeFrame f = .ok b → f = encodeFrame b) ∧
  ((List.range 2048).filter (fun n => decide (decodeFrame (BitVec.ofNat 11 n) ≠ .parityError))).length = 256

/-- From R142, R143, R144 (D5), R146 and R147: a corruption `m` of a valid frame is detected exactly when it touches the
start or the stop bit or an odd number of the nine bits `f[9:1]`. R146 says it of one flipped bit, R147 of an even
number; that three or more odd flips are caught is an inference from R142 to R144. -/
def Obligations.CorruptionDetectedExactly : Prop :=
  ∀ (b : Byte) (m : Frame),
    decodeFrame (encodeFrame b ^^^ m) = .parityError ↔
      m.getLsbD 0 = true ∨ m.getLsbD 10 = true ∨ ((List.range 9).countP (fun i => m.getLsbD (i + 1))) % 2 = 1

/-! ## The Link and the events (41_link.md, 60_exceptions.md) -/

/-- R163 (D6): `enqueue` appends the packet whole at the tail, or rejects it and changes nothing; an empty list is never
queued. -/
def Obligations.EnqueueIsAllOrNothing : Prop :=
  ∀ (s : State) (d : Dev) (p : Packet),
    (p = [] → enqueue d p s = (s, true)) ∧
    (p ≠ [] → s.cfg.qcap.val ≤ (s.link d).q.length → enqueue d p s = (s, false)) ∧
    (p ≠ [] → (s.link d).q.length < s.cfg.qcap.val →
      enqueue d p s = (s.setLink d { s.link d with q := (s.link d).q ++ [p] }, true))

/-- R167 (D7): the byte at `sent` of the head packet goes on the wire; its last byte removes the packet. -/
def Obligations.TxTransmitsTheNextByte : Prop :=
  ∀ (s : State) (d : Dev) (p : Packet) (rest : List Packet) (b : Byte),
    (s.link d).q = p :: rest → p[(s.link d).sent]? = some b →
    exec (.evTx d) s = .next (s.setLink d {
      wire := (s.link d).wire ++ [encodeFrame b]
      lastByteSent := some b
      sent := if (s.link d).sent + 1 = p.length then 0 else (s.link d).sent + 1
      q := if (s.link d).sent + 1 = p.length then rest else p :: rest })

/-- R386 gives these events no move when they are not enabled; that the model answers a refusal of its own name is the
model's choice (log entries 6 and 7). -/
def Obligations.DisabledEventsAreRefused : Prop :=
  (∀ (s : State) (d : Dev), (s.link d).q = [] → exec (.evTx d) s = .refused (.txNotEnabled d)) ∧
  (∀ s : State, s.kb.timer = .off → exec .evKbtick s = .refused .kbTickNotEnabled) ∧
  (∀ s : State, s.ms.mode = .idle → exec .evMstick s = .refused .msTickNotEnabled) ∧
  (∀ s : State, s.mounted = true → exec .evMount s = .refused .mountedAlready)

/-- R381 (D45): the reply `0xFE` is queued and nothing else changes, whichever of the three checks the frame fails. -/
def Obligations.ParityErrorOnlyQueuesResend : Prop :=
  ∀ (s : State) (d : Dev),
    exec (.evParityerror d) s = .next (s.setLink d { s.link d with q := queueAfter s d [0xFE] }) ∧
    ∀ f : Frame, decodeFrame f = .parityError →
      exec (.evRxframe d f) s = .next (s.setLink d { s.link d with q := queueAfter s d [0xFE] })

/-- R104, R170 (D3), R190, R270: a valid frame does exactly what its byte means for that device under its pending state.
-/
def Obligations.ReceivedByteRunsItsInstruction : Prop :=
  ∀ (s : State) (d : Dev) (f : Frame) (b : Byte) (i : Instr),
    decodeFrame f = .ok b → decode ⟨s.kb.pending, s.ms.pending⟩ (.hostByte d b) = .ok i →
    exec (.evRxframe d f) s = exec i s

/-- R130: "every byte, valid or not, leaves the state machine in a well-defined state": every 11-bit frame, for either
device, in every state. -/
def Obligations.EveryFrameIsHandled : Prop :=
  ∀ (s : State) (d : Dev) (f : Frame), ∃ t, exec (.evRxframe d f) s = .next t ∧
    t.cfg = s.cfg ∧ t.mounted = s.mounted ∧ t.schedule = s.schedule ∧ t.result = s.result ∧
    t.kbLink.wire = s.kbLink.wire ∧ t.msLink.wire = s.msLink.wire

/-- R92(a), R168, R175 (D7): what a device has sent and still has to send, in order, is only ever extended, but for the
one flush of its reset, which leaves the wire. -/
def Obligations.OutboundStreamOnlyGrows : Prop :=
  ∀ (s t : State) (i : Instr) (d : Dev), StateInv s → i ≠ .evMount → exec i s = .next t →
    (∃ more, (t.link d).stream = (s.link d).stream ++ more) ∨
    (resetsDev d i s = true ∧ (t.link d).wire = (s.link d).wire)

/-! ## Keyboard commands (42_keyboard_commands.md) -/

/-- R192 (D11, D12, D15): after the flush the reply always fits. Its third byte is the parameter `KB_RESET_ID`. -/
def Obligations.KbResetRestoresEveryDefault : Prop :=
  ∀ s : State,
    exec .kbReset s = .next { s with
      kb := { s.kb with
        repeatIntervalUs := s.cfg.kbDefaultIntervalUs
        repeatDelayMs := s.cfg.kbDefaultDelayMs
        ledMask := 0x00
        scanCodeSet := .set2
        enabled := true
        heldKey := none
        timer := .off
        keyMode := Vector.replicate 256 ⟨true, true⟩
        pending := .idle }
      leds := s.leds ++ [0x00]
      kbLink := { s.kbLink with q := [[0xFA, 0xAA] ++ s.cfg.kbResetId], sent := 0 } }

/-- R193 (D8). -/
def Obligations.KbResendRetransmitsTheLastByte : Prop :=
  ∀ s : State,
    (∀ b, s.kbLink.lastByteSent = some b →
      exec .kbResend s = .next { s with kbLink := { s.kbLink with q := queueAfter s .kb [b] } }) ∧
    (s.kbLink.lastByteSent = none → exec .kbResend s = .next s)

/-- R194, R195: the answers without an ACK; R197: `0xF4` sets `enabled`. -/
def Obligations.KbEchoReadIdAndEnable : Prop :=
  ∀ s : State,
    exec .kbEcho s = .next { s with kbLink := { s.kbLink with q := queueAfter s .kb [0xEE] } } ∧
    exec .kbReadid s = .next { s with kbLink := { s.kbLink with q := queueAfter s .kb [0xAB, 0x83] } } ∧
    exec .kbEnable s = .next { s with
      kb := { s.kb with enabled := true }
      kbLink := { s.kbLink with q := queueAfter s .kb [0xFA] } }

/-- R198 (D13). -/
def Obligations.KbDisableRestoresTypematicAndLeds : Prop :=
  ∀ s : State, exec .kbDisable s = .next { s with
    kb := { s.kb with
      enabled := false
      repeatIntervalUs := s.cfg.kbDefaultIntervalUs
      repeatDelayMs := s.cfg.kbDefaultDelayMs
      ledMask := 0x00
      heldKey := none
      timer := .off }
    leds := s.leds ++ [0x00]
    kbLink := { s.kbLink with q := queueAfter s .kb [0xFA] } }

/-- R199 (D14): the key modes are kept and nothing is flushed. -/
def Obligations.KbSetDefaultsKeepsKeyModesAndQueue : Prop :=
  ∀ s : State, exec .kbSetdefaults s = .next { s with
    kb := { s.kb with
      repeatIntervalUs := s.cfg.kbDefaultIntervalUs
      repeatDelayMs := s.cfg.kbDefaultDelayMs
      ledMask := 0x00
      scanCodeSet := .set2
      enabled := true
      heldKey := none
      timer := .off }
    leds := s.leds ++ [0x00]
    kbLink := { s.kbLink with q := queueAfter s .kb [0xFA] } }

/-- R200, R201, R202. -/
def Obligations.KbParameterCommandsAwaitTheirByte : Prop :=
  ∀ s : State,
    exec .kbSetleds s = .next { s with
      kb := { s.kb with pending := .led }, kbLink := { s.kbLink with q := queueAfter s .kb [0xFA] } } ∧
    exec .kbSettypematic s = .next { s with
      kb := { s.kb with pending := .typematic }, kbLink := { s.kbLink with q := queueAfter s .kb [0xFA] } } ∧
    exec .kbSetscanset s = .next { s with
      kb := { s.kb with pending := .scanSet }, kbLink := { s.kbLink with q := queueAfter s .kb [0xFA] } }

/-- R203 (D18, D20): all eight bits, as received, to the register and to the LED sink. -/
def Obligations.KbLedParameterIsStoredWhole : Prop :=
  ∀ (s : State) (b : Byte), exec (.kbPLed b) s = .next { s with
    kb := { s.kb with ledMask := b, pending := .idle }
    leds := s.leds ++ [b]
    kbLink := { s.kbLink with q := queueAfter s .kb [0xFA] } }

/-- R204 (D17, D20), from the byte: bits 4:0 index the rate table, bits 6:5 the delays 250, 500, 750, 1000; bit 7 is
ignored. -/
def Obligations.KbTypematicParameterSelectsRateAndDelay : Prop :=
  (∀ b : Byte, decodeKbByte .typematic b =
    .kbPTypematic (BitVec.ofNat 1 (b.toNat / 128)) (BitVec.ofNat 2 (b.toNat / 32)) (BitVec.ofNat 5 b.toNat)) ∧
  ∀ (s : State) (ignored : BitVec 1) (delay : BitVec 2) (rate : BitVec 5),
    exec (.kbPTypematic ignored delay rate) s = .next { s with
      kb := { s.kb with
        repeatIntervalUs := s.cfg.rateTable[rate.toNat]'rate.isLt
        repeatDelayMs := if delay = 0 then 250 else if delay = 1 then 500 else if delay = 2 then 750 else 1000
        pending := .idle }
      kbLink := { s.kbLink with q := queueAfter s .kb [0xFA] } }

/-- R205 (D19, D20): 0 queries, without an ACK; 1, 2, 3 select; 3 also clears the key modes; above 3 selects set 2. -/
def Obligations.KbScanSetParameterQueriesOrSelects : Prop :=
  ∀ s : State,
    (exec (.kbPScanset 0x00) s = .next { s with
      kb := { s.kb with pending := .idle }
      kbLink := { s.kbLink with q := (queueAfter s .kb
        [match s.kb.scanCodeSet with | .set1 => 0x01 | .set2 => 0x02 | .set3 => 0x03]) } }) ∧
    (exec (.kbPScanset 0x01) s = .next { s with
      kb := { s.kb with pending := .idle, scanCodeSet := .set1 }
      kbLink := { s.kbLink with q := queueAfter s .kb [0xFA] } }) ∧
    (exec (.kbPScanset 0x03) s = .next { s with
      kb := { s.kb with pending := .idle, scanCodeSet := .set3, keyMode := Vector.replicate 256 ⟨true, true⟩ }
      kbLink := { s.kbLink with q := queueAfter s .kb [0xFA] } }) ∧
    (∀ n : Byte, n = 0x02 ∨ 3 < n.toNat → exec (.kbPScanset n) s = .next { s with
      kb := { s.kb with pending := .idle, scanCodeSet := .set2 }
      kbLink := { s.kbLink with q := queueAfter s .kb [0xFA] } })

/-- R206 (D21), R210 to R213 (D21): in set 3 every one of the 256 key modes is set; outside set 3 the command is
acknowledged and does nothing else. -/
def Obligations.AllKeyModeCommands : Prop :=
  ∀ (s : State) (i : Instr) (m : KeyMode),
    (i, m) ∈ [(Instr.kbAlltypematic, (⟨false, true⟩ : KeyMode)), (.kbAllmakebreak, ⟨true, false⟩),
      (.kbAllmake, ⟨false, false⟩), (.kbAlltmb, ⟨true, true⟩)] →
    exec i s = .next { s with
      kb := if s.kb.scanCodeSet = .set3 then { s.kb with keyMode := Vector.replicate 256 m } else s.kb
      kbLink := { s.kbLink with q := queueAfter s .kb [0xFA] } }

/-- R206 (D21), R214 to R216 (D21): in set 3 each of the three commands awaits one code; outside set 3 it is
acknowledged and awaits none. -/
def Obligations.OneKeyModeCommands : Prop :=
  ∀ (s : State) (i : Instr) (m : KeySel),
    (i, m) ∈ [(Instr.kbKeytypematic, KeySel.makeTypematic), (.kbKeymakebreak, .makeBreak), (.kbKeymake, .make)] →
    exec i s = .next { s with
      kb := if s.kb.scanCodeSet = .set3 then { s.kb with pending := .keyMode m } else s.kb
      kbLink := { s.kbLink with q := queueAfter s .kb [0xFA] } }

/-- R217 (D20, D21): one entry is written, with the mode that the pending state holds; every other entry keeps its mode.
-/
def Obligations.KeyModeParameterWritesOneEntry : Prop :=
  ∀ (s : State) (m : KeySel) (code : Byte), ∃ modes : Vector KeyMode 256,
    exec (.kbPKeymode m code) s = .next { s with
      kb := { s.kb with keyMode := modes, pending := .idle }
      kbLink := { s.kbLink with q := queueAfter s .kb [0xFA] } } ∧
    ∀ c : Byte, modes[c.toNat]'c.isLt =
      if c = code then
        (match m with
          | .makeTypematic => ⟨false, true⟩
          | .makeBreak => ⟨true, false⟩
          | .make => ⟨false, false⟩)
      else s.kb.keyMode[c.toNat]'c.isLt

/-- R218 (D10): the answer to a byte that is no command, by the policy of the configuration. -/
def Obligations.KbUnknownAnswersByPolicy : Prop :=
  ∀ (s : State) (b : Byte), exec (.kbUnknown b) s = .next { s with
    kbLink := { s.kbLink with q := (queueAfter s .kb
      [match s.cfg.unknownPolicy with | .ack => 0xFA | .resend => 0xFE]) } }

/-- R220, for every pending state and every byte, with the spec's policy `ack`: the pending state after, and the one
packet enqueued; `0xFF` as a command flushes first and its packet always fits. -/
def Obligations.KbPendingTransitionTable : Prop :=
  ∀ (s : State) (b : Byte), s.cfg.unknownPolicy = .ack →
    ∃ t, exec (.evRxframe .kb (encodeFrame b)) s = .next t ∧
      t.kb.pending = (
        if s.kb.pending ≠ .idle then .idle
        else if b = 0xED then .led
        else if b = 0xF3 then .typematic
        else if b = 0xF0 then .scanSet
        else if b = 0xFB ∧ s.kb.scanCodeSet = .set3 then .keyMode .makeTypematic
        else if b = 0xFC ∧ s.kb.scanCodeSet = .set3 then .keyMode .makeBreak
        else if b = 0xFD ∧ s.kb.scanCodeSet = .set3 then .keyMode .make
        else .idle) ∧
      t.kbLink =
        if s.kb.pending = .idle ∧ b = 0xFF then { s.kbLink with q := [[0xFA, 0xAA] ++ s.cfg.kbResetId], sent := 0 }
        else { s.kbLink with q := queueAfter s .kb (
          if s.kb.pending = .idle ∧ b = 0xFE then s.kbLink.lastByteSent.toList
          else if s.kb.pending = .idle ∧ b = 0xEE then [0xEE]
          else if s.kb.pending = .idle ∧ b = 0xF2 then [0xAB, 0x83]
          else if s.kb.pending = .scanSet ∧ b = 0x00 then
            [match s.kb.scanCodeSet with | .set1 => 0x01 | .set2 => 0x02 | .set3 => 0x03]
          else [0xFA]) }

/-- R178 (D18), R41 (D18): every write of the LED mask is forwarded, and nothing else is: a step leaves mask and trace
alone, or appends the new mask to the trace. -/
def Obligations.LedSinkFollowsTheMask : Prop :=
  ∀ (s t : State) (i : Instr), i ≠ .evMount → exec i s = .next t →
    (t.kb.ledMask = s.kb.ledMask ∧ t.leds = s.leds) ∨ t.leds = s.leds ++ [t.kb.ledMask]

/-- R422: a host that sends `0xFF` twice has the reset of the device, whatever parameter was awaited. -/
def Obligations.TwoResetBytesResetEachDevice : Prop :=
  ∀ s : State,
    (∃ t u, exec (.evRxframe .kb (encodeFrame 0xFF)) s = .next t ∧ exec (.evRxframe .kb (encodeFrame 0xFF)) t = .next u ∧
      u.kb.scanCodeSet = .set2 ∧ u.kb.enabled = true ∧ u.kb.ledMask = 0x00 ∧ u.kb.pending = .idle) ∧
    (∃ t u, exec (.evRxframe .ms (encodeFrame 0xFF)) s = .next t ∧ exec (.evRxframe .ms (encodeFrame 0xFF)) t = .next u ∧
      u.ms.deviceType = .standard ∧ u.ms.mode = .idle ∧ u.ms.pending = .idle)

/-! ## Keyboard reports, key events, typematic repeat (43, 46) -/

/-- R331 (D27, D30): the keys of a boot report are its non-zero slots, each once, in the order of their first slot, and
its modifiers byte 0. A roll-over report is read by the parameter `NKRO_LAYOUT`: the default layout, a bitmap with its
bits elsewhere, or any other reading; its keys are the usages from 1 to 255 in the set read, ascending. -/
def Obligations.ReportNormalForm : Prop :=
  (∀ (layout : NkroLayout) (m r k1 k2 k3 k4 k5 k6 : Byte),
    (normReport layout (.boot m r k1 k2 k3 k4 k5 k6)).mods = m ∧
    (∀ u : Byte, u ∈ (normReport layout (.boot m r k1 k2 k3 k4 k5 k6)).keys ↔ u ≠ 0x00 ∧ u ∈ [k1, k2, k3, k4, k5, k6]) ∧
    (normReport layout (.boot m r k1 k2 k3 k4 k5 k6)).keys.Pairwise
      (fun a b : Byte => [k1, k2, k3, k4, k5, k6].idxOf a < [k1, k2, k3, k4, k5, k6].idxOf b)) ∧
  (∀ (layout : NkroLayout) (m : Byte) (rest : List Byte),
    (normReport layout (.nkro m rest)).keys.Pairwise (fun a b : Byte => a.toNat < b.toNat) ∧
    match layout with
    | .standard =>
      (normReport layout (.nkro m rest)).mods = m ∧
      ∀ u : Byte, u ∈ (normReport layout (.nkro m rest)).keys ↔
        u ≠ 0x00 ∧ ∃ row, rest[u.toNat / 8]? = some row ∧ row.getLsbD (u.toNat % 8) = true
    | .bits modAt usageAt =>
      (∀ (i : Nat) (hi : i < 8), (normReport layout (.nkro m rest)).mods.getLsbD i = true ↔
        ∃ row, (m :: rest)[(modAt[i]).byte]? = some row ∧ row.getLsbD (modAt[i]).bit = true) ∧
      ∀ u : Byte, u ∈ (normReport layout (.nkro m rest)).keys ↔ u ≠ 0x00 ∧
        ∃ p row, (u, p) ∈ usageAt ∧ (m :: rest)[p.byte]? = some row ∧ row.getLsbD p.bit = true
    | .other n =>
      (normReport layout (.nkro m rest)).mods = (Config.nkroOther n (m :: rest)).mods ∧
      ∀ u : Byte, u ∈ (normReport layout (.nkro m rest)).keys ↔
        u ≠ 0x00 ∧ (Config.nkroOther n (m :: rest)).usages.getLsbD u.toNat = true)

/-- R334 (D27, D28), R341, R368's counterpart: a report is always taken, it becomes the previous report, and besides it
only the keyboard's queue, held key and timer may change; the queue only gets packets at its tail. -/
def Obligations.KbReportReplacesThePreviousReport : Prop :=
  ∀ (s : State) (r : KbReport), ∃ (t : State) (more : List Packet),
    exec (.evKbreport r) s = .next t ∧
    t.kbLink.q = s.kbLink.q ++ more ∧
    t = { s with
      kb := { s.kb with
        prevMods := (normReport s.cfg.nkroLayout r).mods
        prevKeys := (normReport s.cfg.nkroLayout r).keys
        heldKey := t.kb.heldKey
        timer := t.kb.timer }
      kbLink := { s.kbLink with q := s.kbLink.q ++ more } }

/-- R339: after a report, one with its modifiers and its set of keys makes no key event; it only brings its order. -/
def Obligations.SameKeysAgainMakeNoEvent : Prop :=
  ∀ (s : State) (r : KbReport), ∃ t, exec (.evKbreport r) s = .next t ∧
    ∀ r' : KbReport, (normReport s.cfg.nkroLayout r').mods = (normReport s.cfg.nkroLayout r).mods →
      (∀ u : Byte, u ∈ (normReport s.cfg.nkroLayout r').keys ↔ u ∈ (normReport s.cfg.nkroLayout r).keys) →
      exec (.evKbreport r') t = .next { t with kb := { t.kb with prevKeys := (normReport s.cfg.nkroLayout r').keys } }

/-- R334 (D27, D28), R335 (D27), R337 (D28): a report runs its key events in order: the changed modifier bits from bit 0
up, then the releases in the order of the previous report, then the presses in the order of this one; `kbKey` is R242
(D22)'s `kb_key`, whose results OneKeyPressed, OneKeyReleased and DisabledKeyboardDropsKeyEvents state. -/
def Obligations.KbReportRunsItsKeyEventsInOrder : Prop :=
  ∀ (s : State) (r : KbReport), ∃ ms rs ps : List KeyEvent,
    exec (.evKbreport r) s = .next (
      let t := (ms ++ rs ++ ps).foldl (fun s e => kbKey e.usage e.pressed s) s
      { t with kb := { t.kb with
        prevMods := (normReport s.cfg.nkroLayout r).mods, prevKeys := (normReport s.cfg.nkroLayout r).keys } }) ∧
    ms.Pairwise (fun a b : KeyEvent => a.usage.toNat < b.usage.toNat) ∧
    (∀ (u : Byte) (pressed : Bool), (∃ e ∈ ms, e.usage = u ∧ e.pressed = pressed) ↔
      ∃ i, i < 8 ∧ u.toNat = 0xE0 + i ∧ (normReport s.cfg.nkroLayout r).mods.getLsbD i = pressed ∧
        s.kb.prevMods.getLsbD i = !pressed) ∧
    (∀ e ∈ rs, e.pressed = false) ∧
    rs.map (·.usage) = s.kb.prevKeys.filter (fun u => u ∉ (normReport s.cfg.nkroLayout r).keys) ∧
    (∀ e ∈ ps, e.pressed = true) ∧
    ps.map (·.usage) = (normReport s.cfg.nkroLayout r).keys.filter (fun u => u ∉ s.kb.prevKeys)

/-- R242 (D22): while disabled, a key event does nothing, and a report changes the record of the report and nothing
else. -/
def Obligations.DisabledKeyboardDropsKeyEvents : Prop :=
  ∀ s : State, s.kb.enabled = false →
    (∀ (u : Byte) (pressed : Bool), kbKey u pressed s = s) ∧
    ∀ r : KbReport, exec (.evKbreport r) s = .next { s with
      kb := { s.kb with
        prevMods := (normReport s.cfg.nkroLayout r).mods, prevKeys := (normReport s.cfg.nkroLayout r).keys } }

/-- R72, R241(b) and R244 (D24), R245 (D23, D25). `MAKE(set, u)` is the field of that set in the first row of `u`, empty
without a row. In every enabled state a press of `u` sends that make code as one packet, and the key is held, its timer
armed, exactly if it is no modifier, not Pause, and in set 3 its key mode permits typematic; a key without a code in the
set does nothing. The last clause is a report that adds the key to none. -/
def Obligations.OneKeyPressed : Prop :=
  (∀ (cfg : Config) (set : ScanSet) (u : Byte),
    ((∀ r ∈ cfg.scanTable, r.usage ≠ u) → makeCode cfg set u = []) ∧
    ∀ (before after : List ScanRow) (r : ScanRow),
      cfg.scanTable = before ++ r :: after → r.usage = u → (∀ q ∈ before, q.usage ≠ u) →
      makeCode cfg set u = match set with | .set1 => r.make1 | .set2 => r.make2 | .set3 => r.make3) ∧
  ∀ (s : State) (u : Byte), s.kb.enabled = true →
    (kbKey u true s =
      if makeCode s.cfg s.kb.scanCodeSet u = [] then s
      else if (0xE0 ≤ u.toNat ∧ u.toNat ≤ 0xE7) ∨ u = 0x48 ∨
          (s.kb.scanCodeSet = .set3 ∧ ∀ c, (makeCode s.cfg .set3 u).getLast? = some c →
            (s.kb.keyMode[c.toNat]'c.isLt).rep = false) then
        { s with kbLink := { s.kbLink with q := queueAfter s .kb (makeCode s.cfg s.kb.scanCodeSet u) } }
      else
        { s with
          kb := { s.kb with heldKey := some u, timer := .delay }
          kbLink := { s.kbLink with q := queueAfter s .kb (makeCode s.cfg s.kb.scanCodeSet u) } }) ∧
    ∀ reserved : Byte, s.kb.prevKeys = [] → u ≠ 0x00 →
      exec (.evKbreport (.boot s.kb.prevMods reserved u 0 0 0 0 0)) s = .next (
        let t := kbKey u true s
        { t with kb := { t.kb with prevKeys := [u] } })

/-- R72, R241(b), R241(c) and R247 (D23). `BREAK(set, u)` is the field of that set in the first row of `u`, empty
without a row, and empty for Pause in every set. In every enabled state a release of `u` sends the break code of the set
active now (in set 3 if the key mode says so), and if the key was the held one the repeat is cancelled. The last clause
is a report that takes away the only key. -/
def Obligations.OneKeyReleased : Prop :=
  (∀ (cfg : Config) (set : ScanSet) (u : Byte),
    breakCode cfg set 0x48 = [] ∧
    ((∀ r ∈ cfg.scanTable, r.usage ≠ u) → breakCode cfg set u = []) ∧
    ∀ (before after : List ScanRow) (r : ScanRow),
      cfg.scanTable = before ++ r :: after → r.usage = u → (∀ q ∈ before, q.usage ≠ u) → u ≠ 0x48 →
      breakCode cfg set u = match set with | .set1 => r.break1 | .set2 => r.break2 | .set3 => r.break3) ∧
  ∀ (s : State) (u : Byte), s.kb.enabled = true →
    (kbKey u false s = { s with
      kb := { s.kb with
        heldKey := if s.kb.heldKey = some u then none else s.kb.heldKey
        timer := if s.kb.heldKey = some u then .off else s.kb.timer }
      kbLink := { s.kbLink with q :=
        (if s.kb.scanCodeSet = .set3 ∧ ∀ c, (makeCode s.cfg .set3 u).getLast? = some c →
            (s.kb.keyMode[c.toNat]'c.isLt).brk = false then s.kbLink.q
        else queueAfter s .kb (breakCode s.cfg s.kb.scanCodeSet u)) } }) ∧
    ∀ reserved : Byte, s.kb.prevKeys = [u] → u ≠ 0x00 →
      exec (.evKbreport (.boot s.kb.prevMods reserved 0 0 0 0 0 0)) s = .next (
        let t := kbKey u false s
        { t with kb := { t.kb with prevKeys := [] } })

/-- R252 (D26): the make code of the held key in the set active at the tick; a full queue skips it; the timer goes to
Repeat. -/
def Obligations.KbTickRepeatsTheHeldKey : Prop :=
  ∀ (s : State) (u : Byte), s.kb.timer ≠ .off → s.kb.heldKey = some u →
    exec .evKbtick s = .next { s with
      kb := { s.kb with timer := .repeating }
      kbLink := { s.kbLink with q :=
        if s.kb.enabled then queueAfter s .kb (makeCode s.cfg s.kb.scanCodeSet u) else s.kbLink.q } }

/-- R255: press a repeatable key and release it with no tick between, and no tick is enabled. -/
def Obligations.ReleaseCancelsTheRepeat : Prop :=
  ∀ (s : State) (reserved u : Byte), s.kb.enabled = true → s.kb.prevKeys = [] → u ≠ 0x00 →
    ∃ t, exec (.evKbreport (.boot s.kb.prevMods reserved u 0 0 0 0 0)) s = .next t ∧
      (t.kb.heldKey = some u →
        ∃ w, exec (.evKbreport (.boot s.kb.prevMods reserved 0 0 0 0 0 0)) t = .next w ∧
          w.kb.heldKey = none ∧ w.kb.timer = .off)

/-- R251: the complete list of writers of the typematic timer and the held key. -/
def Obligations.TypematicTimerWriters : Prop :=
  ∀ (s t : State) (i : Instr), exec i s = .next t →
    (∀ f, i ≠ .evRxframe .kb f) → (∀ r, i ≠ .evKbreport r) →
    i ∉ [Instr.evMount, .evKbtick, .kbReset, .kbDisable, .kbSetdefaults] →
    t.kb.timer = s.kb.timer ∧ t.kb.heldKey = s.kb.heldKey

/-! ## Mouse commands (44_mouse_commands.md) -/

/-- R272 (D12, D33), R273 (D32), R283 (D33): reset flushes the queue first, so that its reply fits; set-defaults
restores the same registers, flushes nothing and sends the ACK alone. -/
def Obligations.MsResetAndSetDefaults : Prop :=
  ∀ s : State,
    exec .msReset s = .next { s with
      ms := {
        mode := .idle, pending := .idle, deviceType := .standard, sampleRate := 100, window := 0
        acc := { dx := 0, dy := 0, dwheel := 0, buttons := 0x00 }
        stationary := true }
      msLink := { s.msLink with q := [[0xFA, 0xAA, 0x00]], sent := 0 } } ∧
    exec .msSetdefaults s = .next { s with
      ms := {
        mode := .idle, pending := .idle, deviceType := .standard, sampleRate := 100, window := 0
        acc := { dx := 0, dy := 0, dwheel := 0, buttons := 0x00 }
        stationary := true }
      msLink := { s.msLink with q := queueAfter s .ms [0xFA] } }

/-- R274, R275, R276 (D38), R277 (D31): one register each, the accumulators and the rest kept. -/
def Obligations.MsModeAndRateCommandsWriteOneRegister : Prop :=
  ∀ s : State,
    exec .msDisable s = .next { s with
      ms := { s.ms with mode := .idle }, msLink := { s.msLink with q := queueAfter s .ms [0xFA] } } ∧
    exec .msSetstream s = .next { s with
      ms := { s.ms with mode := .idle }, msLink := { s.msLink with q := queueAfter s .ms [0xFA] } } ∧
    exec .msEnable s = .next { s with
      ms := { s.ms with mode := .streaming }, msLink := { s.msLink with q := queueAfter s .ms [0xFA] } } ∧
    exec .msSetrate s = .next { s with
      ms := { s.ms with pending := .rate }, msLink := { s.msLink with q := queueAfter s .ms [0xFA] } }

/-- R278 (D36), R279 (D37), R280: the id (that of `Wheel5` is a parameter), the status, and the plain ACK; only the
queue changes. -/
def Obligations.MsQueriesAndUnknownOnlyReply : Prop :=
  ∀ (s : State) (b : Byte),
    exec .msGetid s = .next { s with msLink := { s.msLink with q := (queueAfter s .ms
      [0xFA, match s.ms.deviceType with | .standard => 0x00 | .wheel3 => 0x03 | .wheel5 => s.cfg.msIdWheel5]) } } ∧
    exec .msStatus s = .next { s with msLink := { s.msLink with q := (queueAfter s .ms
      [0xFA, if s.ms.mode = .streaming then 0x20 else 0x00, 0x02, s.ms.sampleRate]) } } ∧
    exec (.msUnknown b) s = .next { s with msLink := { s.msLink with q := queueAfter s .ms [0xFA] } }

/-- R281 (D35): the rate byte is stored and pushed into the window, and the two handshakes promote one step each. -/
def Obligations.MsRateParameterPushesTheWindow : Prop :=
  ∀ (s : State) (b : Byte), ∃ w : BitVec 24,
    w.toNat = (s.ms.window.toNat * 256 + b.toNat) % 16777216 ∧
    exec (.msPRate b) s = .next { s with
      ms := { s.ms with
        sampleRate := b
        window := w
        pending := .idle
        deviceType :=
          if s.ms.deviceType = .standard ∧ w = 0xC86450 then .wheel3
          else if s.ms.deviceType = .wheel3 ∧ w = 0xC8C850 then .wheel5
          else s.ms.deviceType }
      msLink := { s.msLink with q := queueAfter s .ms [0xFA] } }

/-- R285, for both pending states and every byte; `0xFF` as a command flushes first and its packet always fits. -/
def Obligations.MsPendingAndModeTransitionTable : Prop :=
  ∀ (s : State) (b : Byte),
    ∃ t, exec (.evRxframe .ms (encodeFrame b)) s = .next t ∧
      t.ms.pending = (if s.ms.pending = .idle ∧ b = 0xF3 then .rate else .idle) ∧
      t.ms.mode = (
        if s.ms.pending ≠ .idle then s.ms.mode
        else if b = 0xFF ∨ b = 0xF6 ∨ b = 0xF5 ∨ b = 0xEA then .idle
        else if b = 0xF4 then .streaming
        else s.ms.mode) ∧
      t.msLink =
        if s.ms.pending = .idle ∧ b = 0xFF then { s.msLink with q := [[0xFA, 0xAA, 0x00]], sent := 0 }
        else { s.msLink with q := queueAfter s .ms (
          if s.ms.pending = .idle ∧ b = 0xF2 then
            [0xFA, match s.ms.deviceType with | .standard => 0x00 | .wheel3 => 0x03 | .wheel5 => s.cfg.msIdWheel5]
          else if s.ms.pending = .idle ∧ b = 0xE9 then
            [0xFA, if s.ms.mode = .streaming then 0x20 else 0x00, 0x02, s.ms.sampleRate]
          else [0xFA]) }

/-- R282: the six bytes of the rate sequence 200, 100, 80, from any window, make a `Standard` mouse `Wheel3`; the
sequence 200, 200, 80 makes a `Wheel3` mouse `Wheel5`; and 200, 100, 80 demotes neither. -/
def Obligations.HandshakePromotesFromAnyWindow : Prop :=
  ∀ (s : State) (b : Byte), b = 0x64 ∨ b = 0xC8 → s.ms.pending = .idle →
    ∃ t, ([0xF3, 0xC8, 0xF3, b, 0xF3, 0x50] : List Byte).foldl
        (fun (o : Out) x => match o with | .next s => exec (.evRxframe .ms (encodeFrame x)) s | o => o) (.next s) = .next t ∧
      t.ms.pending = .idle ∧ t.ms.sampleRate = 80 ∧ t.ms.mode = s.ms.mode ∧
      t.ms.deviceType = (
        match s.ms.deviceType with
        | .standard => if b = 0x64 then .wheel3 else .standard
        | .wheel3 => if b = 0xC8 then .wheel5 else .wheel3
        | .wheel5 => .wheel5)

/-- R42, R50(d): the device type never goes back but by the reset or the defaults of the mouse, and then to `Standard`.
-/
def Obligations.DeviceTypeNeverRegresses : Prop :=
  ∀ (s t : State) (i : Instr), i ≠ .evMount → exec i s = .next t →
    deviceRank s.ms.deviceType ≤ deviceRank t.ms.deviceType ∨
    ((resetsMs i s = true ∨ defaultsMs i s = true) ∧ t.ms.deviceType = .standard)

/-! ## Mouse reports and movement packets (45, 47) -/

/-- R363 (D38), R364 (D38), R365 (D38), R368: the contributions, saturated at the i16 bounds; the buttons replaced;
nothing else written. -/
def Obligations.MsReportAccumulatesWithSaturation : Prop :=
  ∀ s : State,
    (∀ b0 b1 b2 b3 : Byte, exec (.evMsreport (.boot b0 b1 b2 b3)) s = .next { s with ms := { s.ms with acc := {
      buttons := b0
      dx := max (-32768) (min 32767 (s.ms.acc.dx + b1.toInt))
      dy := max (-32768) (min 32767 (s.ms.acc.dy + b2.toInt))
      dwheel := max (-32768) (min 32767 (s.ms.acc.dwheel + b3.toInt)) } } }) ∧
    (∀ (b : Byte) (dx dy dw : Int), exec (.evMsreport (.extracted b dx dy dw)) s = .next { s with ms := { s.ms with acc := {
      buttons := b &&& 0x1F
      dx := max (-32768) (min 32767 (s.ms.acc.dx + max (-128) (min 127 dx)))
      dy := max (-32768) (min 32767 (s.ms.acc.dy + max (-128) (min 127 dy)))
      dwheel := max (-32768) (min 32767 (s.ms.acc.dwheel + max (-128) (min 127 dw))) } } })

/-- R305 (D39), R107 (D39): the bytes of the three packets, as the three rows return them (that a row leaves what it
returns in `result` is log entry 4). `x`, `y`, `z` are signed; the transmitted Y is `-y`; the sign flags are bits 4 and
5 of byte 1. -/
def Obligations.MovementPacketBytes : Prop :=
  ∀ (s : State) (btn : BitVec 3) (btn5 : BitVec 5) (x y : BitVec 8) (z : BitVec 4),
    (∃ b1 : Byte,
      b1.toNat = 8 + btn.toNat + (if x.toInt < 0 then 16 else 0) + (if 0 < y.toInt then 32 else 0) ∧
      exec (.mspkt3 btn x y) s = .next { s with result := some (.packet [b1, x, -y]) } ∧
      exec (.mspkt4Wheel3 btn x y z) s =
        .next { s with result := some (.packet [b1, x, -y, BitVec.ofInt 8 z.toInt]) }) ∧
    (∃ b1 b4 : Byte,
      b1.toNat = 8 + btn5.toNat % 8 + (if x.toInt < 0 then 16 else 0) + (if 0 < y.toInt then 32 else 0) ∧
      b4.toNat = z.toNat + 16 * (btn5.toNat / 8) ∧
      exec (.mspkt4Wheel5 btn5 x y z) s = .next { s with result := some (.packet [b1, x, -y, b4]) })

/-- R306 (D40): the all-zero test is about the bytes: only the constant bit 3 of byte 1 is set. -/
def Obligations.AllZeroIsAboutThePacketBytes : Prop :=
  ∀ (x y z : Int) (btn : Byte) (t : DeviceType), -128 ≤ x → x ≤ 127 → -128 ≤ y → y ≤ 127 → -8 ≤ z → z ≤ 7 →
    (allZero x y z btn t = true ↔
      msPacket x y z btn t = [0x08, 0x00, 0x00] ∨ msPacket x y z btn t = [0x08, 0x00, 0x00, 0x00])

/-- R302 (D39, D40): the tick of a streaming mouse, with the bounds `XY_MIN`, `XY_MAX`, `Z_MIN`, `Z_MAX` of the
configuration (U4). Suppressed: nothing is queued, and only a `Standard` mouse drains its wheel. Otherwise the packet is
queued and what it carries is drained, or, the queue being full, nothing at all changes. -/
def Obligations.MsTickSendsOrSuppressesOrSkips : Prop :=
  ∀ (s : State) (x y z : Int), s.ms.mode = .streaming →
    x = max s.cfg.xyMin.val (min s.cfg.xyMax.val s.ms.acc.dx) → y = max s.cfg.xyMin.val (min s.cfg.xyMax.val s.ms.acc.dy) →
    z = max s.cfg.zMin.val (min s.cfg.zMax.val s.ms.acc.dwheel) →
    exec .evMstick s = .next (
      if allZero x y z s.ms.acc.buttons s.ms.deviceType = true ∧ s.ms.stationary = true then
        { s with ms := { s.ms with acc := { s.ms.acc with
          dwheel := if s.ms.deviceType = .standard then s.ms.acc.dwheel - z else s.ms.acc.dwheel } } }
      else if s.msLink.q.length < s.cfg.qcap.val then
        { s with
          ms := { s.ms with
            acc := { s.ms.acc with dx := s.ms.acc.dx - x, dy := s.ms.acc.dy - y, dwheel := s.ms.acc.dwheel - z }
            stationary := allZero x y z s.ms.acc.buttons s.ms.deviceType }
          msLink := { s.msLink with q := s.msLink.q ++ [msPacket x y z s.ms.acc.buttons s.ms.deviceType] } }
      else s)

/-- R303, no motion lost: a tick queues nothing and keeps dx and dy, or queues one packet whose 9-bit X and Y (the sign
flag of byte 1 and the byte itself, Y inverted) are exactly what left the accumulators; for the wheel types byte 4 the
same. -/
def Obligations.MsTickCarriesWhatItDrains : Prop :=
  ∀ s : State, s.ms.mode = .streaming → ∃ t, exec .evMstick s = .next t ∧ (
    (t.msLink = s.msLink ∧ t.ms.acc.dx = s.ms.acc.dx ∧ t.ms.acc.dy = s.ms.acc.dy ∧
      (s.ms.deviceType ≠ .standard → t.ms.acc.dwheel = s.ms.acc.dwheel)) ∨
    ∃ (b1 b2 b3 : Byte) (tail : List Byte),
      t.msLink = { s.msLink with q := s.msLink.q ++ [b1 :: b2 :: b3 :: tail] } ∧
      s.ms.acc.dx = t.ms.acc.dx + (b2.toNat - (if b1.getLsbD 4 then 256 else 0) : Int) ∧
      s.ms.acc.dy = t.ms.acc.dy - (b3.toNat - (if b1.getLsbD 5 then 256 else 0) : Int) ∧
      (match s.ms.deviceType with
        | .standard => tail = []
        | .wheel3 => ∃ b4 : Byte, tail = [b4] ∧ s.ms.acc.dwheel = t.ms.acc.dwheel + b4.toInt
        | .wheel5 => ∃ b4 : Byte, tail = [b4] ∧ s.ms.acc.dwheel = t.ms.acc.dwheel + (b4.extractLsb' 0 4).toInt))

/-- R307: at rest with no button, a mouse that was moving sends exactly one all-zero packet, and the next tick is
suppressed and changes nothing. -/
def Obligations.CleanStopIsSentOnce : Prop :=
  ∀ s : State, s.ms.mode = .streaming → s.ms.stationary = false → s.ms.acc = ⟨0, 0, 0, 0x00⟩ →
    s.msLink.q.length < s.cfg.qcap.val →
    ∃ t, exec .evMstick s = .next t ∧ t.ms.stationary = true ∧ t.ms.acc = s.ms.acc ∧
      t.msLink.q = s.msLink.q ++
        [if s.ms.deviceType = .standard then [0x08, 0x00, 0x00] else [0x08, 0x00, 0x00, 0x00]] ∧
      exec .evMstick t = .next t

/-! ## The two devices, the configuration, reset (10, 60, 70) -/

/-- R20, R405: an instruction that does not act on a device leaves its registers, its queue and its wire alone. -/
def Obligations.EachInstructionStaysOnItsDevice : Prop :=
  ∀ (s t : State) (i : Instr), exec i s = .next t →
    (actsOn i .kb = false → t.kb = s.kb ∧ t.kbLink = s.kbLink ∧ t.leds = s.leds) ∧
    (actsOn i .ms = false → t.ms = s.ms ∧ t.msLink = s.msLink)

/-- R20 as noninterference: what an instruction does to the keyboard's side depends on the keyboard's side and the
configuration alone, and the same for the mouse: two states that agree there stay in agreement. -/
def Obligations.DevicesDoNotInfluenceEachOther : Prop :=
  ∀ (s s' t t' : State) (i : Instr), s.cfg = s'.cfg → exec i s = .next t → exec i s' = .next t' →
    (s.kb = s'.kb → s.kbLink = s'.kbLink → s.leds = s'.leds → t.kb = t'.kb ∧ t.kbLink = t'.kbLink ∧ t.leds = t'.leds) ∧
    (s.ms = s'.ms → s.msLink = s'.msLink → t.ms = t'.ms ∧ t.msLink = t'.msLink)

/-- R12 (D2), R58: no instruction writes the configuration or the schedule, and but for `Mount` the three traces only
grow. -/
def Obligations.TracesOnlyGrow : Prop :=
  ∀ (s t : State) (i : Instr), exec i s = .next t →
    t.cfg = s.cfg ∧ t.schedule = s.schedule ∧
    (i ≠ .evMount → s.kbLink.wire <+: t.kbLink.wire ∧ s.msLink.wire <+: t.msLink.wire ∧ s.leds <+: t.leds)

/-- R420 (D15, D42), R55 (its values rest on D8, D15, D16, D21, D26, D29, D33, D40, D42: log entry 14): `Mount`, which
comes once, writes every field of the spec's state; the two typematic defaults are those of the configuration. The flag
`mounted` of the premise and of the conclusion is the model's choice (log entry 7). -/
def Obligations.MountWritesEveryField : Prop :=
  ∀ s : State, s.mounted = false → ∃ t, exec .evMount s = .next t ∧
    t.kb = {
      enabled := true, scanCodeSet := .set2, repeatIntervalUs := s.cfg.kbDefaultIntervalUs
      repeatDelayMs := s.cfg.kbDefaultDelayMs, ledMask := 0x00, heldKey := none, timer := .off, pending := .idle
      keyMode := Vector.replicate 256 ⟨true, true⟩, prevMods := 0x00, prevKeys := [] } ∧
    t.kbLink = { q := [], sent := 0, lastByteSent := none, wire := [] } ∧
    t.ms = {
      mode := .idle, pending := .idle, deviceType := .standard, sampleRate := 100, window := 0
      acc := { dx := 0, dy := 0, dwheel := 0, buttons := 0x00 }, stationary := true } ∧
    t.msLink = { q := [], sent := 0, lastByteSent := none, wire := [] } ∧
    t.leds = [] ∧ t.mounted = true

/-- R55 (its values rest on D8, D15, D16, D21, D26, D29, D33, D40, D42: log entry 14): the state right after reset,
which in this model is the state after `Mount` (log entry 7, the model's choice). The configuration it carries is the
model's choice (log entries 2 and 3); the last clause says that where R7 gives a parameter a value (D10, D11, D16, D30,
D36, D39) it has that one. -/
def Obligations.ResetHasTheSpecsValues : Prop :=
  State.reset.leds = [] ∧
  State.reset.kb = {
    enabled := true, scanCodeSet := .set2, repeatIntervalUs := State.reset.cfg.kbDefaultIntervalUs
    repeatDelayMs := State.reset.cfg.kbDefaultDelayMs, ledMask := 0x00, heldKey := none, timer := .off, pending := .idle
    keyMode := Vector.replicate 256 ⟨true, true⟩, prevMods := 0x00, prevKeys := [] } ∧
  State.reset.kbLink = { q := [], sent := 0, lastByteSent := none, wire := [] } ∧
  State.reset.ms = {
    mode := .idle, pending := .idle, deviceType := .standard, sampleRate := 100, window := 0
    acc := { dx := 0, dy := 0, dwheel := 0, buttons := 0x00 }, stationary := true } ∧
  State.reset.msLink = { q := [], sent := 0, lastByteSent := none, wire := [] } ∧
  State.reset.cfg.unknownPolicy = .ack ∧ State.reset.cfg.kbResetId = [0x00] ∧ State.reset.cfg.msIdWheel5 = 0x04 ∧
  State.reset.cfg.kbDefaultIntervalUs = 91743 ∧ State.reset.cfg.kbDefaultDelayMs = 500 ∧
  State.reset.cfg.xyMin.val = -128 ∧ State.reset.cfg.xyMax.val = 127 ∧
  State.reset.cfg.zMin.val = -8 ∧ State.reset.cfg.zMax.val = 7 ∧ State.reset.cfg.nkroLayout = .standard

/-- R50 holds at reset. -/
def Obligations.ResetMeetsTheInvariant : Prop := StateInv State.reset

/-- R50: every step keeps the invariant, from every state that meets it. -/
def Obligations.EveryStepKeepsTheInvariant : Prop :=
  ∀ s t : State, StateInv s → step s = .next t → StateInv t

/-! ## Decoding and the step (30_encoding.md) -/

/-- R104, R110, R111 (D20), R120, R121 (D20), R139: an input decodes to an instruction exactly when it is the word of
that instruction, the instruction is well formed, and its `when` condition holds in the context. -/
def Obligations.DecodeAndEncodeAgree : Prop :=
  ∀ (c : DecodeCtx) (w : Input) (i : Instr),
    decode c w = .ok i ↔ (i.wf = true ∧ i.admittedIn c = true ∧ encode i = w)

/-- R110 and R120: the command of every byte, for the keyboard and the mouse, no parameter awaited; R111 and R121 (D20):
the parameter every byte is, under each pending state; R100 and R109: the events and reports. Then words written out
from the table and the rules: command bytes of both devices, a parameter, the frame of `0xFF`, the three packets of
95_test_vectors.md section 2.7. The last clause, that a bare byte of the table is read as a keyboard command, is the
model's choice (log entry 9): the table gives `0xFF` to MS.RESET and to every parameter too. -/
def Obligations.CodeMapsAndSampleWordsDecode : Prop :=
  (∀ (p : MsPending) (b : Byte), decode ⟨.idle, p⟩ (.hostByte .kb b) = .ok (
    if b = 0xFF then .kbReset else if b = 0xFE then .kbResend else if b = 0xFD then .kbKeymake
    else if b = 0xFC then .kbKeymakebreak else if b = 0xFB then .kbKeytypematic else if b = 0xFA then .kbAlltmb
    else if b = 0xF9 then .kbAllmake else if b = 0xF8 then .kbAllmakebreak else if b = 0xF7 then .kbAlltypematic
    else if b = 0xF6 then .kbSetdefaults else if b = 0xF5 then .kbDisable else if b = 0xF4 then .kbEnable
    else if b = 0xF3 then .kbSettypematic else if b = 0xF2 then .kbReadid else if b = 0xF0 then .kbSetscanset
    else if b = 0xEE then .kbEcho else if b = 0xED then .kbSetleds else .kbUnknown b)) ∧
  (∀ (p : KbPending) (b : Byte), decode ⟨p, .idle⟩ (.hostByte .ms b) = .ok (
    if b = 0xFF then .msReset else if b = 0xF6 then .msSetdefaults else if b = 0xF5 then .msDisable
    else if b = 0xF4 then .msEnable else if b = 0xF3 then .msSetrate else if b = 0xF2 then .msGetid
    else if b = 0xEA then .msSetstream else if b = 0xE9 then .msStatus else .msUnknown b)) ∧
  (∀ (p : MsPending) (b : Byte),
    decode ⟨.led, p⟩ (.hostByte .kb b) = .ok (.kbPLed b) ∧
    decode ⟨.typematic, p⟩ (.hostByte .kb b) =
      .ok (.kbPTypematic (BitVec.ofNat 1 (b.toNat / 128)) (BitVec.ofNat 2 (b.toNat / 32)) (BitVec.ofNat 5 b.toNat)) ∧
    decode ⟨.scanSet, p⟩ (.hostByte .kb b) = .ok (.kbPScanset b) ∧
    ∀ m, decode ⟨.keyMode m, p⟩ (.hostByte .kb b) = .ok (.kbPKeymode m b)) ∧
  (∀ (p : KbPending) (b : Byte), decode ⟨p, .rate⟩ (.hostByte .ms b) = .ok (.msPRate b)) ∧
  (∀ (c : DecodeCtx) (d : Dev) (f : Frame),
    decode c .mount = .ok .evMount ∧ decode c (.rxFrame d f) = .ok (.evRxframe d f) ∧
    decode c (.parityError d) = .ok (.evParityerror d) ∧ decode c (.tx d) = .ok (.evTx d) ∧
    decode c .kbTick = .ok .evKbtick ∧ decode c .msTick = .ok .evMstick ∧ decode c (.frameIn f) = .ok (.frameDecode f)) ∧
  (∀ (c : DecodeCtx) (b0 b1 b2 b3 b4 b5 b6 b7 : Byte) (rest : List Byte) (dx dy dw : Int),
    decode c (.kbBoot [b0, b1, b2, b3, b4, b5, b6, b7]) = .ok (.evKbreport (.boot b0 b1 b2 b3 b4 b5 b6 b7)) ∧
    decode c (.kbNkro (b0 :: rest)) = .ok (.evKbreport (.nkro b0 rest)) ∧
    decode c (.msBoot [b0, b1, b2, b3]) = .ok (.evMsreport (.boot b0 b1 b2 b3)) ∧
    decode c (.msExt b0 dx dy dw) = .ok (.evMsreport (.extracted b0 dx dy dw))) ∧
  decode ⟨.idle, .idle⟩ (.hostByte .kb 0b11110100) = .ok .kbEnable ∧
  decode ⟨.idle, .idle⟩ (.hostByte .ms 0b11101001) = .ok .msStatus ∧
  decode ⟨.idle, .idle⟩ (.hostByte .kb 0b11101001) = .ok (.kbUnknown 0xE9) ∧
  decode ⟨.typematic, .idle⟩ (.hostByte .kb 0b10101011) = .ok (.kbPTypematic 1 1 0b01011) ∧
  decode ⟨.idle, .idle⟩ (.frameOut 0b11111111110) = .ok (.frameEncode 0xFF) ∧
  decode ⟨.idle, .idle⟩ (.packet .standard [0x29, 0x05, 0xFD]) = .ok (.mspkt3 1 5 3) ∧
  decode ⟨.idle, .idle⟩ (.packet .wheel3 [0x39, 0xFB, 0xFD, 0xFF]) = .ok (.mspkt4Wheel3 1 (-5) 3 (-1)) ∧
  decode ⟨.idle, .idle⟩ (.packet .wheel5 [0x08, 0x00, 0x00, 0x3F]) = .ok (.mspkt4Wheel5 0b11000 0 0 (-1)) ∧
  decodeTableWord 8 0xFF = some .kbReset

/-- A step of a mounted block decodes the next input in the present state and runs that instruction, the input gone from
the schedule; an input that is no instruction stops; before `Mount` nothing else runs; with nothing scheduled the block
waits. The schedule and the refusals are the model's (log entries 1, 6, 7 and 8). -/
def Obligations.StepRunsTheDecodedInstruction : Prop :=
  ∀ (s : State) (w : Input) (rest : List Input), s.schedule = w :: rest →
    (∀ i, s.mounted = true → decode ⟨s.kb.pending, s.ms.pending⟩ w = .ok i →
      step s = exec i { s with schedule := rest }) ∧
    (∀ e, s.mounted = true → decode ⟨s.kb.pending, s.ms.pending⟩ w = .reject e →
      step s = .refused (.notAnInstruction e)) ∧
    (s.mounted = false → w = .mount → step s = exec .evMount { s with schedule := rest }) ∧
    (s.mounted = false → w ≠ .mount → step s = .refused .notMounted) ∧
    step { s with schedule := [] } = .next { s with schedule := [] }
end

