-- ==== Sys2Proof/Laws/State.lean ====
section
/-! SUPPORT. One lemma per field per update of the state, each true by rfl. -/

namespace Sys2Proof.Machine

@[simp] theorem setKb_cfg (s : State) (k : KbState) : (s.setKb k).cfg = s.cfg := rfl
@[simp] theorem setKb_mounted (s : State) (k : KbState) : (s.setKb k).mounted = s.mounted := rfl
@[simp] theorem setKb_kb (s : State) (k : KbState) : (s.setKb k).kb = k := rfl
@[simp] theorem setKb_kbLink (s : State) (k : KbState) : (s.setKb k).kbLink = s.kbLink := rfl
@[simp] theorem setKb_ms (s : State) (k : KbState) : (s.setKb k).ms = s.ms := rfl
@[simp] theorem setKb_msLink (s : State) (k : KbState) : (s.setKb k).msLink = s.msLink := rfl
@[simp] theorem setKb_leds (s : State) (k : KbState) : (s.setKb k).leds = s.leds := rfl
@[simp] theorem setKb_schedule (s : State) (k : KbState) : (s.setKb k).schedule = s.schedule := rfl
@[simp] theorem setKb_result (s : State) (k : KbState) : (s.setKb k).result = s.result := rfl

@[simp] theorem setMs_cfg (s : State) (m : MsState) : (s.setMs m).cfg = s.cfg := rfl
@[simp] theorem setMs_mounted (s : State) (m : MsState) : (s.setMs m).mounted = s.mounted := rfl
@[simp] theorem setMs_kb (s : State) (m : MsState) : (s.setMs m).kb = s.kb := rfl
@[simp] theorem setMs_kbLink (s : State) (m : MsState) : (s.setMs m).kbLink = s.kbLink := rfl
@[simp] theorem setMs_ms (s : State) (m : MsState) : (s.setMs m).ms = m := rfl
@[simp] theorem setMs_msLink (s : State) (m : MsState) : (s.setMs m).msLink = s.msLink := rfl
@[simp] theorem setMs_leds (s : State) (m : MsState) : (s.setMs m).leds = s.leds := rfl
@[simp] theorem setMs_schedule (s : State) (m : MsState) : (s.setMs m).schedule = s.schedule := rfl
@[simp] theorem setMs_result (s : State) (m : MsState) : (s.setMs m).result = s.result := rfl

@[simp] theorem setLink_cfg (s : State) (d : Dev) (l : Link) : (s.setLink d l).cfg = s.cfg := by cases d <;> rfl
@[simp] theorem setLink_mounted (s : State) (d : Dev) (l : Link) : (s.setLink d l).mounted = s.mounted := by cases d <;> rfl
@[simp] theorem setLink_kb (s : State) (d : Dev) (l : Link) : (s.setLink d l).kb = s.kb := by cases d <;> rfl
@[simp] theorem setLink_ms (s : State) (d : Dev) (l : Link) : (s.setLink d l).ms = s.ms := by cases d <;> rfl
@[simp] theorem setLink_leds (s : State) (d : Dev) (l : Link) : (s.setLink d l).leds = s.leds := by cases d <;> rfl
@[simp] theorem setLink_schedule (s : State) (d : Dev) (l : Link) : (s.setLink d l).schedule = s.schedule := by cases d <;> rfl
@[simp] theorem setLink_result (s : State) (d : Dev) (l : Link) : (s.setLink d l).result = s.result := by cases d <;> rfl
@[simp] theorem setLink_kb_kbLink (s : State) (l : Link) : (s.setLink .kb l).kbLink = l := rfl
@[simp] theorem setLink_kb_msLink (s : State) (l : Link) : (s.setLink .kb l).msLink = s.msLink := rfl
@[simp] theorem setLink_ms_msLink (s : State) (l : Link) : (s.setLink .ms l).msLink = l := rfl
@[simp] theorem setLink_ms_kbLink (s : State) (l : Link) : (s.setLink .ms l).kbLink = s.kbLink := rfl

@[simp] theorem setLeds_cfg (m : Byte) (s : State) : (setLeds m s).cfg = s.cfg := rfl
@[simp] theorem setLeds_mounted (m : Byte) (s : State) : (setLeds m s).mounted = s.mounted := rfl
@[simp] theorem setLeds_kb (m : Byte) (s : State) : (setLeds m s).kb = s.kb := rfl
@[simp] theorem setLeds_kbLink (m : Byte) (s : State) : (setLeds m s).kbLink = s.kbLink := rfl
@[simp] theorem setLeds_ms (m : Byte) (s : State) : (setLeds m s).ms = s.ms := rfl
@[simp] theorem setLeds_msLink (m : Byte) (s : State) : (setLeds m s).msLink = s.msLink := rfl
@[simp] theorem setLeds_leds (m : Byte) (s : State) : (setLeds m s).leds = s.leds ++ [m] := rfl
@[simp] theorem setLeds_schedule (m : Byte) (s : State) : (setLeds m s).schedule = s.schedule := rfl
@[simp] theorem setLeds_result (m : Byte) (s : State) : (setLeds m s).result = s.result := rfl

@[simp] theorem kbRestoreTypematicLed_cfg (s : State) : (kbRestoreTypematicLed s).cfg = s.cfg := rfl
@[simp] theorem kbRestoreTypematicLed_mounted (s : State) : (kbRestoreTypematicLed s).mounted = s.mounted := rfl
@[simp] theorem kbRestoreTypematicLed_kb (s : State) : (kbRestoreTypematicLed s).kb = { s.kb with repeatIntervalUs := s.cfg.kbDefaultIntervalUs, repeatDelayMs := s.cfg.kbDefaultDelayMs, ledMask := kbDefaultLeds } := rfl
@[simp] theorem kbRestoreTypematicLed_kbLink (s : State) : (kbRestoreTypematicLed s).kbLink = s.kbLink := rfl
@[simp] theorem kbRestoreTypematicLed_ms (s : State) : (kbRestoreTypematicLed s).ms = s.ms := rfl
@[simp] theorem kbRestoreTypematicLed_msLink (s : State) : (kbRestoreTypematicLed s).msLink = s.msLink := rfl
@[simp] theorem kbRestoreTypematicLed_leds (s : State) : (kbRestoreTypematicLed s).leds = s.leds ++ [kbDefaultLeds] := rfl
@[simp] theorem kbRestoreTypematicLed_schedule (s : State) : (kbRestoreTypematicLed s).schedule = s.schedule := rfl
@[simp] theorem kbRestoreTypematicLed_result (s : State) : (kbRestoreTypematicLed s).result = s.result := rfl

@[simp] theorem kbCancelRepeat_cfg (s : State) : (kbCancelRepeat s).cfg = s.cfg := rfl
@[simp] theorem kbCancelRepeat_mounted (s : State) : (kbCancelRepeat s).mounted = s.mounted := rfl
@[simp] theorem kbCancelRepeat_kb (s : State) : (kbCancelRepeat s).kb = { s.kb with heldKey := none, timer := .off } := rfl
@[simp] theorem kbCancelRepeat_kbLink (s : State) : (kbCancelRepeat s).kbLink = s.kbLink := rfl
@[simp] theorem kbCancelRepeat_ms (s : State) : (kbCancelRepeat s).ms = s.ms := rfl
@[simp] theorem kbCancelRepeat_msLink (s : State) : (kbCancelRepeat s).msLink = s.msLink := rfl
@[simp] theorem kbCancelRepeat_leds (s : State) : (kbCancelRepeat s).leds = s.leds := rfl
@[simp] theorem kbCancelRepeat_schedule (s : State) : (kbCancelRepeat s).schedule = s.schedule := rfl
@[simp] theorem kbCancelRepeat_result (s : State) : (kbCancelRepeat s).result = s.result := rfl

@[simp] theorem kbSetAllKeyModes_cfg (m : KeyMode) (s : State) : (kbSetAllKeyModes m s).cfg = s.cfg := rfl
@[simp] theorem kbSetAllKeyModes_mounted (m : KeyMode) (s : State) : (kbSetAllKeyModes m s).mounted = s.mounted := rfl
@[simp] theorem kbSetAllKeyModes_kb (m : KeyMode) (s : State) : (kbSetAllKeyModes m s).kb = { s.kb with keyMode := Vector.replicate 256 m } := rfl
@[simp] theorem kbSetAllKeyModes_kbLink (m : KeyMode) (s : State) : (kbSetAllKeyModes m s).kbLink = s.kbLink := rfl
@[simp] theorem kbSetAllKeyModes_ms (m : KeyMode) (s : State) : (kbSetAllKeyModes m s).ms = s.ms := rfl
@[simp] theorem kbSetAllKeyModes_msLink (m : KeyMode) (s : State) : (kbSetAllKeyModes m s).msLink = s.msLink := rfl
@[simp] theorem kbSetAllKeyModes_leds (m : KeyMode) (s : State) : (kbSetAllKeyModes m s).leds = s.leds := rfl
@[simp] theorem kbSetAllKeyModes_schedule (m : KeyMode) (s : State) : (kbSetAllKeyModes m s).schedule = s.schedule := rfl
@[simp] theorem kbSetAllKeyModes_result (m : KeyMode) (s : State) : (kbSetAllKeyModes m s).result = s.result := rfl

@[simp] theorem kbClearKeyModes_cfg (s : State) : (kbClearKeyModes s).cfg = s.cfg := rfl
@[simp] theorem kbClearKeyModes_mounted (s : State) : (kbClearKeyModes s).mounted = s.mounted := rfl
@[simp] theorem kbClearKeyModes_kb (s : State) : (kbClearKeyModes s).kb = { s.kb with keyMode := Vector.replicate 256 keyModeDefault } := rfl
@[simp] theorem kbClearKeyModes_kbLink (s : State) : (kbClearKeyModes s).kbLink = s.kbLink := rfl
@[simp] theorem kbClearKeyModes_ms (s : State) : (kbClearKeyModes s).ms = s.ms := rfl
@[simp] theorem kbClearKeyModes_msLink (s : State) : (kbClearKeyModes s).msLink = s.msLink := rfl
@[simp] theorem kbClearKeyModes_leds (s : State) : (kbClearKeyModes s).leds = s.leds := rfl
@[simp] theorem kbClearKeyModes_schedule (s : State) : (kbClearKeyModes s).schedule = s.schedule := rfl
@[simp] theorem kbClearKeyModes_result (s : State) : (kbClearKeyModes s).result = s.result := rfl

@[simp] theorem kbSetKeyMode_cfg (c : Byte) (m : KeyMode) (s : State) : (kbSetKeyMode c m s).cfg = s.cfg := rfl
@[simp] theorem kbSetKeyMode_mounted (c : Byte) (m : KeyMode) (s : State) : (kbSetKeyMode c m s).mounted = s.mounted := rfl
@[simp] theorem kbSetKeyMode_kb (c : Byte) (m : KeyMode) (s : State) : (kbSetKeyMode c m s).kb = { s.kb with keyMode := s.kb.keyMode.set c.toNat m c.isLt } := rfl
@[simp] theorem kbSetKeyMode_kbLink (c : Byte) (m : KeyMode) (s : State) : (kbSetKeyMode c m s).kbLink = s.kbLink := rfl
@[simp] theorem kbSetKeyMode_ms (c : Byte) (m : KeyMode) (s : State) : (kbSetKeyMode c m s).ms = s.ms := rfl
@[simp] theorem kbSetKeyMode_msLink (c : Byte) (m : KeyMode) (s : State) : (kbSetKeyMode c m s).msLink = s.msLink := rfl
@[simp] theorem kbSetKeyMode_leds (c : Byte) (m : KeyMode) (s : State) : (kbSetKeyMode c m s).leds = s.leds := rfl
@[simp] theorem kbSetKeyMode_schedule (c : Byte) (m : KeyMode) (s : State) : (kbSetKeyMode c m s).schedule = s.schedule := rfl
@[simp] theorem kbSetKeyMode_result (c : Byte) (m : KeyMode) (s : State) : (kbSetKeyMode c m s).result = s.result := rfl

@[simp] theorem kbSetPending_cfg (p : KbPending) (s : State) : (kbSetPending p s).cfg = s.cfg := rfl
@[simp] theorem kbSetPending_mounted (p : KbPending) (s : State) : (kbSetPending p s).mounted = s.mounted := rfl
@[simp] theorem kbSetPending_kb (p : KbPending) (s : State) : (kbSetPending p s).kb = { s.kb with pending := p } := rfl
@[simp] theorem kbSetPending_kbLink (p : KbPending) (s : State) : (kbSetPending p s).kbLink = s.kbLink := rfl
@[simp] theorem kbSetPending_ms (p : KbPending) (s : State) : (kbSetPending p s).ms = s.ms := rfl
@[simp] theorem kbSetPending_msLink (p : KbPending) (s : State) : (kbSetPending p s).msLink = s.msLink := rfl
@[simp] theorem kbSetPending_leds (p : KbPending) (s : State) : (kbSetPending p s).leds = s.leds := rfl
@[simp] theorem kbSetPending_schedule (p : KbPending) (s : State) : (kbSetPending p s).schedule = s.schedule := rfl
@[simp] theorem kbSetPending_result (p : KbPending) (s : State) : (kbSetPending p s).result = s.result := rfl

@[simp] theorem kbSelectSet_cfg (x : ScanSet) (s : State) : (kbSelectSet x s).cfg = s.cfg := rfl
@[simp] theorem kbSelectSet_mounted (x : ScanSet) (s : State) : (kbSelectSet x s).mounted = s.mounted := rfl
@[simp] theorem kbSelectSet_kb (x : ScanSet) (s : State) : (kbSelectSet x s).kb = { s.kb with scanCodeSet := x } := rfl
@[simp] theorem kbSelectSet_kbLink (x : ScanSet) (s : State) : (kbSelectSet x s).kbLink = s.kbLink := rfl
@[simp] theorem kbSelectSet_ms (x : ScanSet) (s : State) : (kbSelectSet x s).ms = s.ms := rfl
@[simp] theorem kbSelectSet_msLink (x : ScanSet) (s : State) : (kbSelectSet x s).msLink = s.msLink := rfl
@[simp] theorem kbSelectSet_leds (x : ScanSet) (s : State) : (kbSelectSet x s).leds = s.leds := rfl
@[simp] theorem kbSelectSet_schedule (x : ScanSet) (s : State) : (kbSelectSet x s).schedule = s.schedule := rfl
@[simp] theorem kbSelectSet_result (x : ScanSet) (s : State) : (kbSelectSet x s).result = s.result := rfl

@[simp] theorem msSetMode_cfg (m : MsMode) (s : State) : (msSetMode m s).cfg = s.cfg := rfl
@[simp] theorem msSetMode_mounted (m : MsMode) (s : State) : (msSetMode m s).mounted = s.mounted := rfl
@[simp] theorem msSetMode_kb (m : MsMode) (s : State) : (msSetMode m s).kb = s.kb := rfl
@[simp] theorem msSetMode_kbLink (m : MsMode) (s : State) : (msSetMode m s).kbLink = s.kbLink := rfl
@[simp] theorem msSetMode_ms (m : MsMode) (s : State) : (msSetMode m s).ms = { s.ms with mode := m } := rfl
@[simp] theorem msSetMode_msLink (m : MsMode) (s : State) : (msSetMode m s).msLink = s.msLink := rfl
@[simp] theorem msSetMode_leds (m : MsMode) (s : State) : (msSetMode m s).leds = s.leds := rfl
@[simp] theorem msSetMode_schedule (m : MsMode) (s : State) : (msSetMode m s).schedule = s.schedule := rfl
@[simp] theorem msSetMode_result (m : MsMode) (s : State) : (msSetMode m s).result = s.result := rfl

@[simp] theorem msDefaults_cfg (s : State) : (msDefaults s).cfg = s.cfg := rfl
@[simp] theorem msDefaults_mounted (s : State) : (msDefaults s).mounted = s.mounted := rfl
@[simp] theorem msDefaults_kb (s : State) : (msDefaults s).kb = s.kb := rfl
@[simp] theorem msDefaults_kbLink (s : State) : (msDefaults s).kbLink = s.kbLink := rfl
@[simp] theorem msDefaults_ms (s : State) : (msDefaults s).ms = MsState.afterMount := rfl
@[simp] theorem msDefaults_msLink (s : State) : (msDefaults s).msLink = s.msLink := rfl
@[simp] theorem msDefaults_leds (s : State) : (msDefaults s).leds = s.leds := rfl
@[simp] theorem msDefaults_schedule (s : State) : (msDefaults s).schedule = s.schedule := rfl
@[simp] theorem msDefaults_result (s : State) : (msDefaults s).result = s.result := rfl

@[simp] theorem returning_cfg (r : OpResult) (s : State) : (returning r s).cfg = s.cfg := rfl
@[simp] theorem returning_mounted (r : OpResult) (s : State) : (returning r s).mounted = s.mounted := rfl
@[simp] theorem returning_kb (r : OpResult) (s : State) : (returning r s).kb = s.kb := rfl
@[simp] theorem returning_kbLink (r : OpResult) (s : State) : (returning r s).kbLink = s.kbLink := rfl
@[simp] theorem returning_ms (r : OpResult) (s : State) : (returning r s).ms = s.ms := rfl
@[simp] theorem returning_msLink (r : OpResult) (s : State) : (returning r s).msLink = s.msLink := rfl
@[simp] theorem returning_leds (r : OpResult) (s : State) : (returning r s).leds = s.leds := rfl
@[simp] theorem returning_schedule (r : OpResult) (s : State) : (returning r s).schedule = s.schedule := rfl
@[simp] theorem returning_result (r : OpResult) (s : State) : (returning r s).result = some r := rfl

/-! ## Links -/

@[simp] theorem link_kb (s : State) : s.link .kb = s.kbLink := rfl
@[simp] theorem link_ms (s : State) : s.link .ms = s.msLink := rfl
@[simp] theorem link_setLink (s : State) (d : Dev) (l : Link) : (s.setLink d l).link d = l := by cases d <;> rfl
@[simp] theorem link_setLink_kb_ms (s : State) (l : Link) : (s.setLink .kb l).link .ms = s.msLink := rfl
@[simp] theorem link_setLink_ms_kb (s : State) (l : Link) : (s.setLink .ms l).link .kb = s.kbLink := rfl
@[simp] theorem link_setKb (s : State) (k : KbState) (d : Dev) : (s.setKb k).link d = s.link d := by cases d <;> rfl
@[simp] theorem link_setMs (s : State) (m : MsState) (d : Dev) : (s.setMs m).link d = s.link d := by cases d <;> rfl
@[simp] theorem link_setLeds (m : Byte) (s : State) (d : Dev) : (setLeds m s).link d = s.link d := by cases d <;> rfl

/-! ## Two updates -/

@[simp] theorem setKb_setKb (s : State) (k k' : KbState) : (s.setKb k).setKb k' = s.setKb k' := rfl
@[simp] theorem setMs_setMs (s : State) (m m' : MsState) : (s.setMs m).setMs m' = s.setMs m' := rfl
@[simp] theorem setLink_setLink (s : State) (d : Dev) (l l' : Link) : (s.setLink d l).setLink d l' = s.setLink d l' := by
  cases d <;> rfl
@[simp] theorem setLink_self (s : State) (d : Dev) : s.setLink d (s.link d) = s := by cases d <;> rfl
@[simp] theorem setKb_self (s : State) : s.setKb s.kb = s := rfl
@[simp] theorem setMs_self (s : State) : s.setMs s.ms = s := rfl

end Sys2Proof.Machine
end

