-- ==== Sys2Proof/Laws/Ops.lean ====
section
/-! SUPPORT. One lemma per shared operation that says everything it can do: `send` writes one queue as `queueAfter` says;
`enqueue` accepts or rejects; `kbPress`, `kbRelease` and `kbKey` write the keyboard's queue, its held key and its timer. -/

namespace Sys2Proof.Machine

/-! ## enqueue and send -/

/-- What a caller that ignores the answer gets. -/
theorem send_eq (d : Dev) (p : Packet) (s : State) :
    send d p s = s.setLink d { s.link d with q := queueAfter s d p } := by
  unfold send enqueue queueAfter
  by_cases hp : p = []
  · simp only [hp, if_true, ne_eq, not_true_eq_false, false_and, if_false]
    exact (setLink_self s d).symm
  · by_cases hq : s.cfg.qcap.val ≤ (s.link d).q.length
    · simp only [hp, hq, Nat.not_lt.mpr hq, if_true, and_false, if_false]
      exact (setLink_self s d).symm
    · simp [hp, hq, Nat.lt_of_not_le hq]

theorem sendAck_eq (d : Dev) (s : State) :
    sendAck d s = s.setLink d { s.link d with q := queueAfter s d [0xFA] } := send_eq d _ s

theorem raiseParityError_eq (d : Dev) (s : State) :
    raiseParityError d s = s.setLink d { s.link d with q := queueAfter s d [0xFE] } := send_eq d _ s

/-- The answer of `enqueue`. -/
theorem enqueue_snd (d : Dev) (p : Packet) (s : State) :
    (enqueue d p s).2 = decide (p = [] ∨ (s.link d).q.length < s.cfg.qcap.val) := by
  unfold enqueue
  by_cases hp : p = []
  · simp [hp]
  · by_cases hq : s.cfg.qcap.val ≤ (s.link d).q.length
    · simp [hp, hq]
    · simp [hp, hq, Nat.lt_of_not_le hq]

/-- A rejected packet changes nothing. -/
theorem enqueue_false {d : Dev} {p : Packet} {s : State} (h : (enqueue d p s).2 = false) : (enqueue d p s).1 = s := by
  rw [enqueue_snd] at h
  have : send d p s = s := by
    rw [send_eq]
    have hq : queueAfter s d p = (s.link d).q := by
      unfold queueAfter
      have : ¬ (p ≠ [] ∧ (s.link d).q.length < s.cfg.qcap.val) := by simp_all
      simp [this]
    rw [hq]
    exact setLink_self s d
  exact this

theorem queueAfter_nil (s : State) (d : Dev) : queueAfter s d [] = (s.link d).q := by simp [queueAfter]

/-- A packet enqueued on an empty queue always fits. -/
theorem queueAfter_empty {s : State} {d : Dev} {p : Packet} (hp : p ≠ []) (hq : (s.link d).q = []) :
    queueAfter s d p = [p] := by
  have := s.cfg.qcap.property
  simp [queueAfter, hp, hq]
  omega

/-- The queue after an enqueue is the queue before, with the packet at its tail or without. -/
theorem queueAfter_cases (s : State) (d : Dev) (p : Packet) :
    queueAfter s d p = (s.link d).q ∨
      (p ≠ [] ∧ (s.link d).q.length < s.cfg.qcap.val ∧ queueAfter s d p = (s.link d).q ++ [p]) := by
  unfold queueAfter
  split
  · rename_i h
    exact .inr ⟨h.1, h.2, rfl⟩
  · exact .inl rfl

/-- `queueAfter` reads the Link of its device and the capacity, nothing else. -/
theorem queueAfter_congr {s t : State} {d : Dev} {p : Packet} (hl : t.link d = s.link d) (hc : t.cfg = s.cfg) :
    queueAfter t d p = queueAfter s d p := by simp only [queueAfter, hl, hc]

/-! ## The queue's form is kept -/

theorem Link.Wf.queueAfter {s : State} {d : Dev} (h : (s.link d).Wf s.cfg.qcap.val) (p : Packet) :
    Link.Wf s.cfg.qcap.val { s.link d with q := queueAfter s d p } := by
  rcases queueAfter_cases s d p with hq | ⟨hp, hlen, hq⟩ <;> rw [hq]
  · exact h
  · refine ⟨by simp; omega, ?_, ?_, by simp⟩
    · intro x hx
      rcases List.mem_append.1 hx with hx | hx
      · exact h.nonempty x hx
      · simp at hx; exact hx ▸ hp
    · intro x rest hx
      cases hql : (s.link d).q with
      | nil =>
        simp [hql] at hx
        rw [h.sent_zero hql, ← hx.1]
        exact List.length_pos_of_ne_nil hp
      | cons y ys =>
        simp [hql] at hx
        rw [← hx.1]
        exact h.sent_lt y ys hql

theorem Link.Wf.flushed {cap : Nat} {l : Link} : Link.Wf cap { l with q := [], sent := 0 } :=
  ⟨Nat.zero_le _, by simp, by simp, by simp⟩

theorem Link.Wf.empty {cap : Nat} : Link.empty.Wf cap := ⟨Nat.zero_le _, by simp [Link.empty], by simp [Link.empty], by simp [Link.empty]⟩

/-- A transmitted byte keeps the form of the queue. -/
theorem Link.Wf.afterTx {cap : Nat} {l : Link} {p : Packet} {rest : List Packet} {b : Byte} (h : l.Wf cap)
    (hq : l.q = p :: rest) : (linkAfterTx l p rest b).Wf cap := by
  have hlen := h.length_le
  have hs := h.sent_lt p rest hq
  rw [hq] at hlen
  simp only [List.length_cons] at hlen
  unfold linkAfterTx
  by_cases he : l.sent + 1 = p.length
  · refine ⟨by simp [he]; omega, ?_, ?_, by simp [he]⟩
    · intro x hx
      simp [he] at hx
      exact h.nonempty x (by rw [hq]; exact List.mem_cons_of_mem _ hx)
    · intro x xs hx
      simp [he] at hx ⊢
      exact List.length_pos_of_ne_nil (h.nonempty x (by rw [hq, hx]; simp))
  · refine ⟨by simp [he]; omega, ?_, ?_, by simp [he]⟩
    · intro x hx
      simp [he] at hx
      exact h.nonempty x (by rw [hq]; simpa using hx)
    · intro x xs hx
      simp [he] at hx ⊢
      rw [← hx.1]; omega

/-! ## Streams (R92): an enqueue appends, a transmission moves one frame from the waiting part to the wire -/

theorem Link.stream_queueAfter {s : State} {d : Dev} (h : (s.link d).Wf s.cfg.qcap.val) (p : Packet) :
    ∃ more, Link.stream { s.link d with q := queueAfter s d p } = (s.link d).stream ++ more := by
  rcases queueAfter_cases s d p with hq | ⟨-, -, hq⟩ <;> rw [hq]
  · exact ⟨[], by simp⟩
  · have hle : (s.link d).sent ≤ (s.link d).q.flatten.length := by
      cases hql : (s.link d).q with
      | nil => rw [h.sent_zero hql]; exact Nat.zero_le _
      | cons y ys =>
        have := h.sent_lt y ys hql
        simp only [List.flatten_cons, List.length_append]; omega
    exact ⟨p.map encodeFrame, by simp [Link.stream, List.drop_append_of_le_length hle]⟩

theorem Link.stream_afterTx {l : Link} {p : Packet} {rest : List Packet} {b : Byte} (hq : l.q = p :: rest)
    (hb : p[l.sent]? = some b) : (linkAfterTx l p rest b).stream = l.stream := by
  obtain ⟨hlt, rfl⟩ := List.getElem?_eq_some_iff.1 hb
  have hdrop : (p ++ rest.flatten).drop l.sent = p[l.sent] :: (p ++ rest.flatten).drop (l.sent + 1) := by
    rw [List.drop_append_of_le_length (by omega), List.drop_append_of_le_length (by omega)]
    rw [List.drop_eq_getElem_cons hlt]; rfl
  unfold linkAfterTx Link.stream
  by_cases he : l.sent + 1 = p.length
  · rw [he, List.drop_left] at hdrop
    simp only [he, hq, if_true, List.drop_zero, List.flatten_cons, hdrop, List.map_cons, List.append_assoc,
      List.singleton_append]
  · simp only [he, hq, if_false, List.flatten_cons, hdrop, List.map_cons, List.append_assoc, List.singleton_append]

/-! ## Key events -/

/-- Everything a key event can do: the keyboard's queue, its held key and its timer. -/
structure KeyFrame (s t : State) : Prop where
  kb : t.kb = { s.kb with heldKey := t.kb.heldKey, timer := t.kb.timer }
  link : t.kbLink = { s.kbLink with q := t.kbLink.q }
  rest : t = { s with kb := t.kb, kbLink := t.kbLink }

theorem KeyFrame.refl (s : State) : KeyFrame s s := ⟨rfl, rfl, rfl⟩

theorem KeyFrame.trans {s t u : State} (h : KeyFrame s t) (k : KeyFrame t u) : KeyFrame s u := by
  refine ⟨?_, ?_, ?_⟩
  · rw [k.kb, h.kb]
  · rw [k.link, h.link]
  · rw [k.rest, h.rest]

theorem kbPress_frame (u : Byte) (set : ScanSet) (s : State) : KeyFrame s (kbPress u set s) := by
  unfold kbPress
  split
  · exact KeyFrame.refl s
  · dsimp only
    rw [send_eq]
    split <;> exact ⟨rfl, rfl, rfl⟩

theorem kbRelease_frame (u : Byte) (set : ScanSet) (s : State) : KeyFrame s (kbRelease u set s) := by
  unfold kbRelease
  dsimp only
  rw [send_eq]
  split <;> split <;> exact ⟨rfl, rfl, rfl⟩

theorem kbKey_frame (u : Byte) (pressed : Bool) (s : State) : KeyFrame s (kbKey u pressed s) := by
  unfold kbKey
  split
  · exact KeyFrame.refl s
  · split
    · exact kbPress_frame _ _ _
    · exact kbRelease_frame _ _ _

/-- A property that every key event keeps, a list of key events keeps. -/
theorem kbKeys_induction {P : State → Prop} (hstep : ∀ u pressed s, P s → P (kbKey u pressed s)) (es : List KeyEvent)
    (s : State) (h : P s) : P (kbKeys es s) := by
  unfold kbKeys
  induction es generalizing s with
  | nil => exact h
  | cons e es ih => exact ih _ (hstep _ _ _ h)

theorem kbKeys_frame (es : List KeyEvent) (s : State) : KeyFrame s (kbKeys es s) :=
  kbKeys_induction (P := KeyFrame s) (fun u b t h => h.trans (kbKey_frame u b t)) es s (KeyFrame.refl s)

/-- A disabled keyboard drops every event (R242). -/
theorem kbKey_disabled {s : State} (h : s.kb.enabled = false) (u : Byte) (pressed : Bool) : kbKey u pressed s = s := by
  simp [kbKey, h]

theorem kbKeys_disabled {s : State} (h : s.kb.enabled = false) (es : List KeyEvent) : kbKeys es s = s := by
  unfold kbKeys
  induction es with
  | nil => rfl
  | cons e es ih => simp only [List.foldl_cons, kbKey_disabled h]; exact ih

end Sys2Proof.Machine
end

