-- ==== Sys2Proof/Laws/Bytes.lean ====
section
/-! SUPPORT. Everything a byte of the host can do, said once: `KbFrame` of the keyboard's commands and parameters, `MsFrame`
of the mouse's. -/

namespace Sys2Proof.Machine

/-- The instructions a byte for the keyboard can run (R110, R111). -/
def isKbByte (i : Instr) : Bool :=
  match i with
  | .kbReset | .kbResend | .kbKeymake | .kbKeymakebreak | .kbKeytypematic | .kbAlltmb | .kbAllmake | .kbAllmakebreak
  | .kbAlltypematic | .kbSetdefaults | .kbDisable | .kbEnable | .kbSettypematic | .kbReadid | .kbSetscanset | .kbEcho
  | .kbSetleds | .kbUnknown _ | .kbPLed _ | .kbPTypematic _ _ _ | .kbPScanset _ | .kbPKeymode _ _ => true
  | _ => false

/-- The instructions a byte for the mouse can run (R120, R121). -/
def isMsByte (i : Instr) : Bool :=
  match i with
  | .msReset | .msSetdefaults | .msDisable | .msEnable | .msSetrate | .msGetid | .msSetstream | .msStatus
  | .msUnknown _ | .msPRate _ => true
  | _ => false

/-- What becomes of a Link: all flushed if `flushing`, and then one packet enqueued. -/
def Replied (flushing : Bool) (s t : State) (d : Dev) : Prop :=
  ∃ p, t.link d = match flushing with
    | false => { s.link d with q := queueAfter s d p }
    | true => { s.link d with q := queueAfter (flush d s) d p, sent := 0 }

/-- Everything a keyboard command or parameter can do. -/
structure KbFrame (flushing : Bool) (s t : State) : Prop where
  rest : t = { s with kb := t.kb, kbLink := t.kbLink, leds := t.leds }
  link : Replied flushing s t .kb
  leds : (t.leds = s.leds ∧ t.kb.ledMask = s.kb.ledMask) ∨ t.leds = s.leds ++ [t.kb.ledMask]
  prev : t.kb.prevMods = s.kb.prevMods ∧ t.kb.prevKeys = s.kb.prevKeys
  held : (t.kb.heldKey = s.kb.heldKey ∧ t.kb.timer = s.kb.timer ∧
      (t.kb.enabled = s.kb.enabled ∨ t.kb.enabled = true)) ∨
    (t.kb.heldKey = none ∧ t.kb.timer = .off)

/-- Everything a mouse command or parameter can do. -/
structure MsFrame (flushing : Bool) (s t : State) : Prop where
  rest : t = { s with ms := t.ms, msLink := t.msLink }
  link : Replied flushing s t .ms
  acc : t.ms.acc = s.ms.acc ∨ t.ms.acc = MouseAcc.zero

/-- A reply leaves the wire. -/
theorem Replied.wire {f : Bool} {s t : State} {d : Dev} (h : Replied f s t d) : (t.link d).wire = (s.link d).wire := by
  obtain ⟨p, h⟩ := h
  cases f <;> rw [h]

/-- A reply keeps the queue's form. -/
theorem Replied.wf {f : Bool} {s t : State} {d : Dev} (h : Replied f s t d) (hw : (s.link d).Wf s.cfg.qcap.val) :
    (t.link d).Wf s.cfg.qcap.val := by
  obtain ⟨p, h⟩ := h
  cases f <;> rw [h]
  · exact hw.queueAfter p
  · have hf : ((flush d s).link d).Wf (flush d s).cfg.qcap.val := by cases d <;> exact Link.Wf.flushed
    have hq := hf.queueAfter p
    cases d <;> exact hq

/-! ## The keyboard -/

/-- An acknowledged change of the registers that touches neither the LED mask, nor the reports, nor the held key. -/
theorem KbFrame.sent {s t : State} (ht : t = s.setKb t.kb) (hl : t.kb.ledMask = s.kb.ledMask)
    (hp : t.kb.prevMods = s.kb.prevMods ∧ t.kb.prevKeys = s.kb.prevKeys)
    (hh : t.kb.heldKey = s.kb.heldKey ∧ t.kb.timer = s.kb.timer ∧ (t.kb.enabled = s.kb.enabled ∨ t.kb.enabled = true))
    (p : Packet) : KbFrame false s (send .kb p t) := by
  have hcfg : t.cfg = s.cfg := by rw [ht]; rfl
  have hlink : t.link .kb = s.link .kb := by rw [ht]; rfl
  have hleds : t.leds = s.leds := by rw [ht]; rfl
  have heq : queueAfter t .kb p = queueAfter s .kb p := queueAfter_congr hlink hcfg
  rw [send_eq, heq, hlink]
  refine ⟨?_, ⟨p, rfl⟩, .inl ⟨hleds, hl⟩, hp, .inl hh⟩
  rw [ht]; rfl

theorem KbFrame.acked {s t : State} (ht : t = s.setKb t.kb) (hl : t.kb.ledMask = s.kb.ledMask)
    (hp : t.kb.prevMods = s.kb.prevMods ∧ t.kb.prevKeys = s.kb.prevKeys)
    (hh : t.kb.heldKey = s.kb.heldKey ∧ t.kb.timer = s.kb.timer ∧ (t.kb.enabled = s.kb.enabled ∨ t.kb.enabled = true)) :
    KbFrame false s (sendAck .kb t) := KbFrame.sent ht hl hp hh _

theorem set3Only_frame {s : State} {f : State → State} (hf : KbFrame false s (f s)) : KbFrame false s (set3Only f s) := by
  unfold set3Only
  split
  · exact KbFrame.acked rfl rfl ⟨rfl, rfl⟩ ⟨rfl, rfl, .inl rfl⟩
  · exact hf

theorem exec_kbByte {i : Instr} (h : isKbByte i = true) (s : State) :
    ∃ t, exec i s = .next t ∧ KbFrame (i == .kbReset) s t := by
  have same : ∀ p, KbFrame false s (send .kb p s) := KbFrame.sent rfl rfl ⟨rfl, rfl⟩ ⟨rfl, rfl, .inl rfl⟩
  cases i <;> simp only [isKbByte, Bool.false_eq_true] at h
  case kbReset =>
    refine ⟨_, rfl, ?_⟩
    rw [send_eq]
    exact ⟨rfl, ⟨_, rfl⟩, .inr rfl, ⟨rfl, rfl⟩, .inr ⟨rfl, rfl⟩⟩
  case kbResend =>
    show ∃ t, execKbResend s = .next t ∧ KbFrame false s t
    unfold execKbResend
    split
    · exact ⟨_, rfl, same _⟩
    · exact ⟨_, rfl, ⟨rfl, ⟨[], rfl⟩, .inl ⟨rfl, rfl⟩, ⟨rfl, rfl⟩, .inl ⟨rfl, rfl, .inl rfl⟩⟩⟩
  case kbDisable =>
    refine ⟨_, rfl, ?_⟩
    rw [sendAck_eq]
    exact ⟨rfl, ⟨_, rfl⟩, .inr rfl, ⟨rfl, rfl⟩, .inr ⟨rfl, rfl⟩⟩
  case kbSetdefaults =>
    refine ⟨_, rfl, ?_⟩
    rw [sendAck_eq]
    exact ⟨rfl, ⟨_, rfl⟩, .inr rfl, ⟨rfl, rfl⟩, .inr ⟨rfl, rfl⟩⟩
  case kbPLed mask =>
    refine ⟨_, rfl, ?_⟩
    rw [sendAck_eq]
    exact ⟨rfl, ⟨_, rfl⟩, .inr rfl, ⟨rfl, rfl⟩, .inl ⟨rfl, rfl, .inl rfl⟩⟩
  case kbUnknown b =>
    show ∃ t, execKbUnknown b s = .next t ∧ KbFrame false s t
    unfold execKbUnknown
    split <;> exact ⟨_, rfl, same _⟩
  case kbPScanset n =>
    show ∃ t, execKbPScanset n s = .next t ∧ KbFrame false s t
    unfold execKbPScanset
    split_ifs
    · exact ⟨_, rfl, KbFrame.sent (t := kbSetPending .idle s) rfl rfl ⟨rfl, rfl⟩ ⟨rfl, rfl, .inl rfl⟩ _⟩
    all_goals exact ⟨_, rfl, KbFrame.acked rfl rfl ⟨rfl, rfl⟩ ⟨rfl, rfl, .inl rfl⟩⟩
  case kbEnable => exact ⟨_, rfl, KbFrame.acked rfl rfl ⟨rfl, rfl⟩ ⟨rfl, rfl, .inr rfl⟩⟩
  case kbKeymake => exact ⟨_, rfl, set3Only_frame (KbFrame.acked rfl rfl ⟨rfl, rfl⟩ ⟨rfl, rfl, .inl rfl⟩)⟩
  case kbKeymakebreak => exact ⟨_, rfl, set3Only_frame (KbFrame.acked rfl rfl ⟨rfl, rfl⟩ ⟨rfl, rfl, .inl rfl⟩)⟩
  case kbKeytypematic => exact ⟨_, rfl, set3Only_frame (KbFrame.acked rfl rfl ⟨rfl, rfl⟩ ⟨rfl, rfl, .inl rfl⟩)⟩
  case kbAlltmb => exact ⟨_, rfl, set3Only_frame (KbFrame.acked rfl rfl ⟨rfl, rfl⟩ ⟨rfl, rfl, .inl rfl⟩)⟩
  case kbAllmake => exact ⟨_, rfl, set3Only_frame (KbFrame.acked rfl rfl ⟨rfl, rfl⟩ ⟨rfl, rfl, .inl rfl⟩)⟩
  case kbAllmakebreak => exact ⟨_, rfl, set3Only_frame (KbFrame.acked rfl rfl ⟨rfl, rfl⟩ ⟨rfl, rfl, .inl rfl⟩)⟩
  case kbAlltypematic => exact ⟨_, rfl, set3Only_frame (KbFrame.acked rfl rfl ⟨rfl, rfl⟩ ⟨rfl, rfl, .inl rfl⟩)⟩
  case kbReadid => exact ⟨_, rfl, same _⟩
  case kbEcho => exact ⟨_, rfl, same _⟩
  all_goals exact ⟨_, rfl, KbFrame.acked rfl rfl ⟨rfl, rfl⟩ ⟨rfl, rfl, .inl rfl⟩⟩

/-! ## The mouse -/

/-- A reply after a change of the registers that keeps or clears the accumulators. -/
theorem MsFrame.sent {s t : State} (ht : t = s.setMs t.ms) (ha : t.ms.acc = s.ms.acc ∨ t.ms.acc = MouseAcc.zero)
    (p : Packet) : MsFrame false s (send .ms p t) := by
  have hcfg : t.cfg = s.cfg := by rw [ht]; rfl
  have hlink : t.link .ms = s.link .ms := by rw [ht]; rfl
  have heq : queueAfter t .ms p = queueAfter s .ms p := queueAfter_congr hlink hcfg
  rw [send_eq, heq, hlink]
  refine ⟨?_, ⟨p, rfl⟩, ha⟩
  rw [ht]; rfl

theorem MsFrame.acked {s t : State} (ht : t = s.setMs t.ms) (ha : t.ms.acc = s.ms.acc ∨ t.ms.acc = MouseAcc.zero) :
    MsFrame false s (sendAck .ms t) := MsFrame.sent ht ha _

theorem exec_msByte {i : Instr} (h : isMsByte i = true) (s : State) :
    ∃ t, exec i s = .next t ∧ MsFrame (i == .msReset) s t := by
  cases i <;> simp only [isMsByte, Bool.false_eq_true] at h
  case msReset =>
    refine ⟨_, rfl, ?_⟩
    rw [send_eq]
    exact ⟨rfl, ⟨_, rfl⟩, .inr rfl⟩
  case msSetdefaults => exact ⟨_, rfl, MsFrame.acked rfl (.inr rfl)⟩
  case msGetid => exact ⟨_, rfl, MsFrame.sent rfl (.inl rfl) _⟩
  case msStatus => exact ⟨_, rfl, MsFrame.sent rfl (.inl rfl) _⟩
  all_goals exact ⟨_, rfl, MsFrame.acked rfl (.inl rfl)⟩

end Sys2Proof.Machine
end

