-- ==== Sys2Proof/Laws/Decode.lean ====
section
/-! SUPPORT. The command maps as functions of the byte, and what a byte, a frame and a packet decode to. -/

namespace Sys2Proof

open Machine

/-! ## The command maps (R110, R120, R139) -/

/-- Every byte is matched by exactly one row of the keyboard's command map. -/
theorem kbRows_exactly_one : ∀ b : Byte, kbRows.countP (fun r => r.hits b) = 1 := by decide +kernel

/-- Every byte is matched by exactly one row of the mouse's command map. -/
theorem msRows_exactly_one : ∀ b : Byte, msRows.countP (fun r => r.hits b) = 1 := by decide +kernel

theorem decodeKbCommand_eq : ∀ b : Byte, decodeKbCommand b =
    if b = 0xFF then .kbReset
    else if b = 0xFE then .kbResend
    else if b = 0xEE then .kbEcho
    else if b = 0xF2 then .kbReadid
    else if b = 0xF4 then .kbEnable
    else if b = 0xF5 then .kbDisable
    else if b = 0xF6 then .kbSetdefaults
    else if b = 0xED then .kbSetleds
    else if b = 0xF3 then .kbSettypematic
    else if b = 0xF0 then .kbSetscanset
    else if b = 0xF7 then .kbAlltypematic
    else if b = 0xF8 then .kbAllmakebreak
    else if b = 0xF9 then .kbAllmake
    else if b = 0xFA then .kbAlltmb
    else if b = 0xFB then .kbKeytypematic
    else if b = 0xFC then .kbKeymakebreak
    else if b = 0xFD then .kbKeymake
    else .kbUnknown b := by decide +kernel

theorem decodeMsCommand_eq : ∀ b : Byte, decodeMsCommand b =
    if b = 0xFF then .msReset
    else if b = 0xF6 then .msSetdefaults
    else if b = 0xF5 then .msDisable
    else if b = 0xEA then .msSetstream
    else if b = 0xF4 then .msEnable
    else if b = 0xF3 then .msSetrate
    else if b = 0xF2 then .msGetid
    else if b = 0xE9 then .msStatus
    else .msUnknown b := by decide +kernel

/-- A byte with no row of its own is UNKNOWN. -/
theorem decodeKbCommand_noRow : ∀ b : Byte, kbNoRow b = true → decodeKbCommand b = .kbUnknown b := by decide +kernel

theorem decodeMsCommand_noRow : ∀ b : Byte, msNoRow b = true → decodeMsCommand b = .msUnknown b := by decide +kernel

/-! ## Frames (R140) -/

theorem decodeFrame_encodeFrame : ∀ b : Byte, decodeFrame (encodeFrame b) = .ok b := by decide +kernel

/-! ## Parameter bytes (R103) -/

theorem typematic_fields : ∀ b : Byte, typematicIgnored b ++ typematicDelay b ++ typematicRate b = b := by decide +kernel

theorem typematic_fields_of : ∀ (i : BitVec 1) (d : BitVec 2) (r : BitVec 5),
    typematicIgnored (i ++ d ++ r) = i ∧ typematicDelay (i ++ d ++ r) = d ∧ typematicRate (i ++ d ++ r) = r := by
  decide +kernel

/-! ## Packets (R107) -/

theorem low8_toInt (x : BitVec 8) : low8 x.toInt = x := BitVec.ofInt_toInt

theorem low4_toInt (z : BitVec 4) : low4 z.toInt = z := BitVec.ofInt_toInt

/-- The transmitted Y. -/
theorem low8_sub_toInt (y : BitVec 8) : low8 (0x100 - y.toInt) = -y := by
  unfold low8
  rw [Int.sub_eq_add_neg, BitVec.ofInt_add, BitVec.ofInt_neg, BitVec.ofInt_toInt]
  simp

/-- The first byte of a packet, its sign flags as Booleans. -/
theorem msByte1_eq (x y : Int) (btn : Byte) :
    msByte1 x y btn = 0x08 ||| (btn &&& 0x07) ||| (if decide (x < 0) then 0x10 else 0x00) |||
      (if decide (y > 0) then 0x20 else 0x00) := by
  simp [msByte1]

/-- The fields of the first byte, for every button and both signs. -/
theorem msByte1_fields : ∀ (btn : BitVec 5) (p q : Bool),
    let b1 : Byte := 0x08 ||| (btn.setWidth 8 &&& 0x07) ||| (if p then 0x10 else 0x00) ||| (if q then 0x20 else 0x00)
    b1.extractLsb' 6 2 = 0#2 ∧ b1.getLsbD 3 = true ∧ b1.getLsbD 4 = p ∧ b1.getLsbD 5 = q ∧
      b1.extractLsb' 0 3 = btn.extractLsb' 0 3 := by
  decide +kernel

theorem packetHead_msByte1 (btn : BitVec 5) (x y : BitVec 8) :
    packetHead (msByte1 x.toInt y.toInt (btn.setWidth 8)) x y = true ∧
    (msByte1 x.toInt y.toInt (btn.setWidth 8)).extractLsb' 0 3 = btn.extractLsb' 0 3 := by
  rw [msByte1_eq]
  obtain ⟨h1, h2, h3, h4, h5⟩ := msByte1_fields btn (decide (x.toInt < 0)) (decide (y.toInt > 0))
  refine ⟨?_, h5⟩
  simp only [packetHead, h1, h2, h3, h4, beq_self_eq_true, Bool.and_self]

theorem buttons_widened : ∀ btn : BitVec 3,
    btn.setWidth 8 = (btn.setWidth 5).setWidth 8 ∧ (btn.setWidth 5).extractLsb' 0 3 = btn := by decide +kernel

theorem wheel3_byte4 : ∀ z : BitVec 4, z.signExtend 8 = low8 z.toInt ∧ (low8 z.toInt).extractLsb' 0 4 = z := by
  decide +kernel

theorem wheel5_byte4 : ∀ (btn : BitVec 5) (z : BitVec 4),
    let b : Byte := z.setWidth 8 ||| (((btn.setWidth 8 >>> 3) &&& 0x03) <<< 4)
    b.extractLsb' 6 2 = 0#2 ∧ b.extractLsb' 4 2 ++ btn.extractLsb' 0 3 = btn ∧ b.extractLsb' 0 4 = z := by
  decide +kernel

theorem decodePacket_standard (btn : BitVec 3) (x y : BitVec 8) :
    decodePacket .standard (msPacket x.toInt y.toInt 0 (btn.setWidth 8) .standard) = .ok (.mspkt3 btn x y) := by
  obtain ⟨h1, h2⟩ := packetHead_msByte1 (btn.setWidth 5) x y
  obtain ⟨h3, h4⟩ := buttons_widened btn
  rw [← h3] at h1 h2
  simp only [msPacket, low8_toInt, low8_sub_toInt, decodePacket, BitVec.neg_neg, h1, h2, h4, if_true]

theorem decodePacket_wheel3 (btn : BitVec 3) (x y : BitVec 8) (z : BitVec 4) :
    decodePacket .wheel3 (msPacket x.toInt y.toInt z.toInt (btn.setWidth 8) .wheel3) =
      .ok (.mspkt4Wheel3 btn x y z) := by
  obtain ⟨h1, h2⟩ := packetHead_msByte1 (btn.setWidth 5) x y
  obtain ⟨h3, h4⟩ := buttons_widened btn
  obtain ⟨h5, h6⟩ := wheel3_byte4 z
  rw [← h3] at h1 h2
  simp only [msPacket, low8_toInt x, low8_sub_toInt, decodePacket, BitVec.neg_neg, h1, h2, h4, h5, h6,
    beq_self_eq_true, Bool.and_self, if_true]

theorem decodePacket_wheel5 (btn : BitVec 5) (x y : BitVec 8) (z : BitVec 4) :
    decodePacket .wheel5 (msPacket x.toInt y.toInt z.toInt (btn.setWidth 8) .wheel5) =
      .ok (.mspkt4Wheel5 btn x y z) := by
  obtain ⟨h1, h2⟩ := packetHead_msByte1 btn x y
  obtain ⟨h5, h6, h7⟩ := wheel5_byte4 btn z
  simp only [msPacket, low8_toInt x, low4_toInt, low8_sub_toInt, decodePacket, BitVec.neg_neg, h1, h2, h5, h6, h7,
    beq_self_eq_true, Bool.and_self, if_true]

end Sys2Proof
end

