-- ==== Sys2Proof/Laws/Events.lean ====
section
/-! SUPPORT. One lemma per event that says everything it can do: the two byte interpreters, `RxFrame`, `Tx`, the key events'
queue, and the two ticks. -/

namespace Sys2Proof.Machine

/-! ## Bytes and frames -/

theorem isKbByte_decode (p : KbPending) (b : Byte) : isKbByte (decodeKbByte p b) = true := by
  have h : ∀ b, isKbByte (decodeKbCommand b) = true := by decide +kernel
  cases p
  · exact h b
  all_goals rfl

theorem isMsByte_decode (p : MsPending) (b : Byte) : isMsByte (decodeMsByte p b) = true := by
  have h : ∀ b, isMsByte (decodeMsCommand b) = true := by decide +kernel
  cases p
  · exact h b
  · rfl

/-- `kb_byte(b)` runs the instruction the byte decodes to. -/
theorem kbByte_eq (b : Byte) (s : State) : kbByte b s = exec (decodeKbByte s.kb.pending b) s := by
  have hc : kbCommand b s = exec (decodeKbCommand b) s := by
    rw [decodeKbCommand_eq]
    simp only [apply_ite (fun i => exec i s)]
    rfl
  unfold kbByte
  split <;> rename_i h <;> rw [h] <;> first | rfl | exact hc

/-- `ms_byte(b)` runs the instruction the byte decodes to. -/
theorem msByte_eq (b : Byte) (s : State) : msByte b s = exec (decodeMsByte s.ms.pending b) s := by
  have hc : msCommand b s = exec (decodeMsCommand b) s := by
    rw [decodeMsCommand_eq]
    simp only [apply_ite (fun i => exec i s)]
    rfl
  unfold msByte
  split <;> rename_i h <;> rw [h] <;> first | rfl | exact hc

/-- Everything a received frame can do. -/
theorem exec_evRxframe (s : State) (d : Dev) (f : Frame) : ∃ t, exec (.evRxframe d f) s = .next t ∧
    ((decodeFrame f = .parityError ∧ t = s.setLink d { s.link d with q := queueAfter s d [0xFE] }) ∨
     (∃ b, decodeFrame f = .ok b ∧ d = .kb ∧ exec (decodeKbByte s.kb.pending b) s = .next t ∧
        KbFrame (decodeKbByte s.kb.pending b == .kbReset) s t) ∨
     (∃ b, decodeFrame f = .ok b ∧ d = .ms ∧ exec (decodeMsByte s.ms.pending b) s = .next t ∧
        MsFrame (decodeMsByte s.ms.pending b == .msReset) s t)) := by
  show ∃ t, execEvRxframe d f s = .next t ∧ _
  unfold execEvRxframe
  cases decodeFrame f with
  | parityError => exact ⟨_, rfl, .inl ⟨rfl, raiseParityError_eq d s⟩⟩
  | ok b =>
    cases d with
    | kb =>
      obtain ⟨t, h, hf⟩ := exec_kbByte (isKbByte_decode s.kb.pending b) s
      exact ⟨t, (kbByte_eq b s).trans h, .inr (.inl ⟨b, rfl, rfl, h, hf⟩)⟩
    | ms =>
      obtain ⟨t, h, hf⟩ := exec_msByte (isMsByte_decode s.ms.pending b) s
      exact ⟨t, (msByte_eq b s).trans h, .inr (.inr ⟨b, rfl, rfl, h, hf⟩)⟩

/-- Where `Tx` moves, the head packet has the byte that goes out. -/
theorem exec_evTx {s t : State} {d : Dev} (h : exec (.evTx d) s = .next t) :
    ∃ p rest b, (s.link d).q = p :: rest ∧ p[(s.link d).sent]? = some b ∧
      t = s.setLink d (linkAfterTx (s.link d) p rest b) := by
  have h : execEvTx d s = .next t := h
  unfold execEvTx at h
  split at h
  · cases h
  · rename_i p rest hq
    split at h
    · cases h
    · rename_i b hb
      cases h
      exact ⟨p, rest, b, hq, hb, rfl⟩

/-! ## Key events -/

/-- A key event puts at most one packet at the tail of the keyboard's queue. -/
theorem kbKey_queue (u : Byte) (pressed : Bool) (s : State) :
    ∃ p, (kbKey u pressed s).kbLink = { s.kbLink with q := queueAfter s .kb p } := by
  unfold kbKey kbPress kbRelease
  dsimp only
  rw [send_eq, send_eq]
  split
  · exact ⟨[], rfl⟩
  · split
    · split
      · exact ⟨[], rfl⟩
      · split <;> exact ⟨_, rfl⟩
    · split <;> split <;> first | exact ⟨[], rfl⟩ | exact ⟨_, rfl⟩

/-- What a key event leaves of the held key: kept, dropped, or the pressed key, which is repeatable and has a code. -/
theorem kbKey_held (u : Byte) (pressed : Bool) (s : State) :
    ((kbKey u pressed s).kb.heldKey = s.kb.heldKey ∧ (kbKey u pressed s).kb.timer = s.kb.timer) ∨
    ((kbKey u pressed s).kb.heldKey = none ∧ (kbKey u pressed s).kb.timer = .off) ∨
    ((kbKey u pressed s).kb.heldKey = some u ∧ (kbKey u pressed s).kb.timer = .delay ∧ s.kb.enabled = true ∧
      makeCode s.cfg s.kb.scanCodeSet u ≠ [] ∧ repeatable s.cfg s.kb u s.kb.scanCodeSet = true) := by
  unfold kbKey kbPress kbRelease
  dsimp only
  rw [send_eq, send_eq]
  split
  · exact .inl ⟨rfl, rfl⟩
  · rename_i he
    split
    · split
      · exact .inl ⟨rfl, rfl⟩
      · rename_i hm
        split
        · rename_i hr
          exact .inr (.inr ⟨rfl, rfl, by simpa using he, hm, hr⟩)
        · exact .inl ⟨rfl, rfl⟩
    · split
      · exact .inr (.inl ⟨rfl, rfl⟩)
      · split <;> exact .inl ⟨rfl, rfl⟩

/-! ## The ticks -/

/-- Where `KbTick` moves, the timer runs; a packet may be sent, and the timer goes to Repeat. -/
theorem exec_evKbtick {s t : State} (h : exec .evKbtick s = .next t) :
    s.kb.timer ≠ .off ∧ ∃ p, t = { s with
      kb := { s.kb with timer := .repeating }, kbLink := { s.kbLink with q := queueAfter s .kb p } } := by
  have h : execEvKbtick s = .next t := h
  unfold execEvKbtick at h
  split at h
  · cases h
  · rename_i ho
    refine ⟨ho, ?_⟩
    cases h
    dsimp only
    split
    · split
      · rw [send_eq]; exact ⟨_, rfl⟩
      · exact ⟨[], rfl⟩
    · exact ⟨[], rfl⟩

/-- The three outcomes of a tick: suppressed, skipped by a full queue, or sent and drained (R302). -/
theorem msTick_eq (s : State) :
    msTick s =
      let x := clamp s.ms.acc.dx s.cfg.xyMin s.cfg.xyMax
      let y := clamp s.ms.acc.dy s.cfg.xyMin s.cfg.xyMax
      let z := clamp s.ms.acc.dwheel s.cfg.zMin s.cfg.zMax
      let zero := allZero x y z s.ms.acc.buttons s.ms.deviceType
      if zero && s.ms.stationary then
        if s.ms.deviceType = .standard then
          { s with ms := { s.ms with acc := { s.ms.acc with dwheel := s.ms.acc.dwheel - z } } }
        else s
      else if s.msLink.q.length < s.cfg.qcap.val then
        { s with
          ms := { s.ms with
            acc := { s.ms.acc with dx := s.ms.acc.dx - x, dy := s.ms.acc.dy - y, dwheel := s.ms.acc.dwheel - z }
            stationary := zero }
          msLink := { s.msLink with q := s.msLink.q ++ [msPacket x y z s.ms.acc.buttons s.ms.deviceType] } }
      else s := by
  have hne : ∀ x y z b t, msPacket x y z b t ≠ [] := by
    intro x y z b t
    cases t <;> simp [msPacket]
  unfold msTick enqueue
  dsimp only
  split
  · rfl
  · rw [if_neg (hne _ _ _ _ _)]
    by_cases hq : s.cfg.qcap.val ≤ (s.link .ms).q.length
    · rw [if_pos hq]
      have : ¬ s.msLink.q.length < s.cfg.qcap.val := Nat.not_lt.2 hq
      rw [if_neg this]
    · rw [if_neg hq]
      have : s.msLink.q.length < s.cfg.qcap.val := Nat.lt_of_not_le hq
      rw [if_pos this]
      rfl

/-- Where `MsTick` moves, the mouse is streaming. -/
theorem exec_evMstick {s t : State} (h : exec .evMstick s = .next t) : s.ms.mode = .streaming ∧ t = msTick s := by
  have h : execEvMstick s = .next t := h
  unfold execEvMstick at h
  split at h
  · cases h
  · rename_i hm
    cases h
    exact ⟨by simpa using hm, rfl⟩

end Sys2Proof.Machine
end

