-- ==== Sys2Proof/Laws/Operands.lean ====
section
/-! SUPPORT. What the pure operand functions can do: clamping, the bits and the keys of a roll-over report under any layout,
the row of a usage in the scan-code table. -/

namespace Sys2Proof.Machine

/-- A clamped value lies between the bounds. -/
theorem clamp_range {v lo hi : Int} (h : lo ≤ hi) : lo ≤ clamp v lo hi ∧ clamp v lo hi ≤ hi := by
  unfold clamp; split_ifs <;> omega

/-- Clamping as the tick's rule reads in order arithmetic. -/
theorem clamp_eq {v lo hi : Int} (h : lo ≤ hi) : clamp v lo hi = max lo (min hi v) := by
  unfold clamp; split_ifs <;> omega

/-- The clamp of zero, for every configuration. -/
theorem clamp_zero {lo hi : Int} (hlo : lo ≤ 0) (hhi : 0 ≤ hi) : clamp 0 lo hi = 0 := by
  unfold clamp; split_ifs <;> omega

/-- A bit of a report is set exactly if its byte is there and has it set. -/
theorem reportBit_iff (r : List Byte) (p : BitAt) :
    reportBit r p = true ↔ ∃ row, r[p.byte]? = some row ∧ row.getLsbD p.bit = true := by
  unfold reportBit
  rw [List.getD_eq_getElem?_getD]
  cases r[p.byte]? <;> simp

/-- The keys of a roll-over report ascend, whatever the layout. -/
theorem nkroKeys_ascending (layout : NkroLayout) (r : List Byte) :
    (nkroKeys layout r).Pairwise (fun a b : Byte => a.toNat < b.toNat) := by
  unfold nkroKeys
  rw [List.pairwise_map]
  refine List.Pairwise.imp_of_mem (R := fun a b => a < b) (fun {a b} ha hb hab => ?_)
    (List.Pairwise.filter _ List.pairwise_lt_range')
  simp only [List.mem_filter, List.mem_range'_1] at ha hb
  simp only [BitVec.toNat_ofNat]
  omega

/-- They are the non-zero usages of the set read. -/
theorem mem_nkroKeys {layout : NkroLayout} {r : List Byte} {u : Byte} :
    u ∈ nkroKeys layout r ↔ u ≠ 0x00 ∧ nkroPressed layout r u.toNat = true := by
  unfold nkroKeys
  simp only [List.mem_map, List.mem_filter, List.mem_range'_1]
  constructor
  · rintro ⟨n, ⟨hn, hp⟩, rfl⟩
    have hmod : n % 256 = n := Nat.mod_eq_of_lt (by omega)
    simp only [BitVec.toNat_ofNat, Nat.reducePow, hmod]
    refine ⟨fun h => ?_, hp⟩
    have := congrArg BitVec.toNat h
    simp at this
    omega
  · rintro ⟨h0, hp⟩
    have hu : u.toNat ≠ 0 := fun h => h0 (BitVec.eq_of_toNat_eq h)
    exact ⟨u.toNat, ⟨⟨by omega, by have := u.isLt; omega⟩, hp⟩, by simp⟩

/-- A usage with no row. -/
theorem scanRow_none {cfg : Config} {u : Byte} (h : ∀ r ∈ cfg.scanTable, r.usage ≠ u) : scanRow cfg u = none := by
  unfold scanRow
  rw [List.find?_eq_none]
  exact fun r hr => by simpa using h r hr

/-- The first row of a usage is the one that counts. -/
theorem scanRow_first {cfg : Config} {u : Byte} {before after : List ScanRow} {r : ScanRow}
    (ht : cfg.scanTable = before ++ r :: after) (hr : r.usage = u) (hb : ∀ q ∈ before, q.usage ≠ u) :
    scanRow cfg u = some r := by
  unfold scanRow
  rw [ht, List.find?_append, List.find?_eq_none.2 (fun q hq => by simpa using hb q hq)]
  simp [hr]

end Sys2Proof.Machine
end

