-- ==== Sys2Proof/Laws/PerInstr.lean ====
section
/-! SUPPORT. Per instruction: a well-formed instruction, in a context that admits it, is read back from its word. -/

namespace Sys2Proof.Laws.RoundTrip

open Sys2Proof Sys2Proof.Machine

/-- Decoding the word of `i` gives `i` back. -/
def Statement (i : Instr) : Prop :=
  ∀ c : DecodeCtx, i.wf = true → i.admittedIn c = true → decode c (encode i) = .ok i

/-- The shape of every keyboard command. -/
theorem kbCommand {i : Instr} {b : Byte} (he : encode i = .hostByte .kb b) (hd : decodeKbCommand b = i)
    {c : DecodeCtx} (hc : (c.kb == .idle) = true) : decode c (encode i) = .ok i := by
  simp only [he, decode, decodeKbByte, eq_of_beq hc, hd]

/-- The shape of every mouse command. -/
theorem msCommand {i : Instr} {b : Byte} (he : encode i = .hostByte .ms b) (hd : decodeMsCommand b = i)
    {c : DecodeCtx} (hc : (c.ms == .idle) = true) : decode c (encode i) = .ok i := by
  simp only [he, decode, decodeMsByte, eq_of_beq hc, hd]

theorem frameEncode (b : Byte) : Statement (.frameEncode b) := fun _ _ _ => by
  simp only [encode, decode, decodeFrame_encodeFrame]

theorem frameDecode (f : Frame) : Statement (.frameDecode f) := fun _ _ _ => rfl

theorem kbReset : Statement .kbReset := fun _ _ hc => kbCommand rfl (by decide) hc

theorem kbResend : Statement .kbResend := fun _ _ hc => kbCommand rfl (by decide) hc

theorem kbKeymake : Statement .kbKeymake := fun _ _ hc => kbCommand rfl (by decide) hc

theorem kbKeymakebreak : Statement .kbKeymakebreak := fun _ _ hc => kbCommand rfl (by decide) hc

theorem kbKeytypematic : Statement .kbKeytypematic := fun _ _ hc => kbCommand rfl (by decide) hc

theorem kbAlltmb : Statement .kbAlltmb := fun _ _ hc => kbCommand rfl (by decide) hc

theorem kbAllmake : Statement .kbAllmake := fun _ _ hc => kbCommand rfl (by decide) hc

theorem kbAllmakebreak : Statement .kbAllmakebreak := fun _ _ hc => kbCommand rfl (by decide) hc

theorem kbAlltypematic : Statement .kbAlltypematic := fun _ _ hc => kbCommand rfl (by decide) hc

theorem kbSetdefaults : Statement .kbSetdefaults := fun _ _ hc => kbCommand rfl (by decide) hc

theorem kbDisable : Statement .kbDisable := fun _ _ hc => kbCommand rfl (by decide) hc

theorem kbEnable : Statement .kbEnable := fun _ _ hc => kbCommand rfl (by decide) hc

theorem kbSettypematic : Statement .kbSettypematic := fun _ _ hc => kbCommand rfl (by decide) hc

theorem kbReadid : Statement .kbReadid := fun _ _ hc => kbCommand rfl (by decide) hc

theorem kbSetscanset : Statement .kbSetscanset := fun _ _ hc => kbCommand rfl (by decide) hc

theorem kbEcho : Statement .kbEcho := fun _ _ hc => kbCommand rfl (by decide) hc

theorem kbSetleds : Statement .kbSetleds := fun _ _ hc => kbCommand rfl (by decide) hc

theorem kbUnknown (b : Byte) : Statement (.kbUnknown b) := fun _ hw hc => kbCommand rfl (decodeKbCommand_noRow b hw) hc

theorem kbPLed (mask : Byte) : Statement (.kbPLed mask) := fun _ _ hc => by
  simp only [encode, decode, decodeKbByte, eq_of_beq hc]

theorem kbPTypematic (ignored : BitVec 1) (delay : BitVec 2) (rate : BitVec 5) : Statement (.kbPTypematic ignored delay rate) := fun _ _ hc => by
  obtain ⟨h1, h2, h3⟩ := typematic_fields_of ignored delay rate
  simp only [encode, decode, decodeKbByte, eq_of_beq hc, h1, h2, h3]

theorem kbPScanset (n : Byte) : Statement (.kbPScanset n) := fun _ _ hc => by
  simp only [encode, decode, decodeKbByte, eq_of_beq hc]

theorem kbPKeymode (m : KeySel) (code : Byte) : Statement (.kbPKeymode m code) := fun _ _ hc => by
  simp only [encode, decode, decodeKbByte, eq_of_beq hc]

theorem msReset : Statement .msReset := fun _ _ hc => msCommand rfl (by decide) hc

theorem msSetdefaults : Statement .msSetdefaults := fun _ _ hc => msCommand rfl (by decide) hc

theorem msDisable : Statement .msDisable := fun _ _ hc => msCommand rfl (by decide) hc

theorem msEnable : Statement .msEnable := fun _ _ hc => msCommand rfl (by decide) hc

theorem msSetrate : Statement .msSetrate := fun _ _ hc => msCommand rfl (by decide) hc

theorem msGetid : Statement .msGetid := fun _ _ hc => msCommand rfl (by decide) hc

theorem msSetstream : Statement .msSetstream := fun _ _ hc => msCommand rfl (by decide) hc

theorem msStatus : Statement .msStatus := fun _ _ hc => msCommand rfl (by decide) hc

theorem msUnknown (b : Byte) : Statement (.msUnknown b) := fun _ hw hc => msCommand rfl (decodeMsCommand_noRow b hw) hc

theorem msPRate (rate : Byte) : Statement (.msPRate rate) := fun _ _ hc => by
  simp only [encode, decode, decodeMsByte, eq_of_beq hc]

theorem evMount : Statement .evMount := fun _ _ _ => rfl

theorem evRxframe (d : Dev) (f : Frame) : Statement (.evRxframe d f) := fun _ _ _ => rfl

theorem evParityerror (d : Dev) : Statement (.evParityerror d) := fun _ _ _ => rfl

theorem evTx (d : Dev) : Statement (.evTx d) := fun _ _ _ => rfl

theorem evKbreport (r : KbReport) : Statement (.evKbreport r) := fun _ _ _ => by cases r <;> rfl

theorem evMsreport (r : MsReport) : Statement (.evMsreport r) := fun _ _ _ => by cases r <;> rfl

theorem evKbtick : Statement .evKbtick := fun _ _ _ => rfl

theorem evMstick : Statement .evMstick := fun _ _ _ => rfl

theorem mspkt3 (btn : BitVec 3) (x y : BitVec 8) : Statement (.mspkt3 btn x y) := fun _ _ _ => decodePacket_standard btn x y

theorem mspkt4Wheel3 (btn : BitVec 3) (x y : BitVec 8) (z : BitVec 4) : Statement (.mspkt4Wheel3 btn x y z) := fun _ _ _ => decodePacket_wheel3 btn x y z

theorem mspkt4Wheel5 (btn : BitVec 5) (x y : BitVec 8) (z : BitVec 4) : Statement (.mspkt4Wheel5 btn x y z) := fun _ _ _ => decodePacket_wheel5 btn x y z

end Sys2Proof.Laws.RoundTrip
end

