-- ==== Sys2Proof/Tests/Slice0.lean ====
section
/-! SUPPORT. The model's own tests: the well-formedness smoke, one word written from the spec's encoding for every
constructor, single steps against the vectors of spec/95_test_vectors.md, and for each statement with hypotheses a state and
operands that meet them. Expected values come from that file or from the rule a test names. -/

namespace Sys2Proof.Tests
open Sys2Proof Sys2Proof.Machine

/-! ## Small states -/

/-- The next state, if there is one. -/
def nextOf (o : Out) : Option State :=
  match o with
  | .next s => some s
  | _ => none

/-- The refusal, if there is one. -/
def refusalOf (o : Out) : Option Refusal :=
  match o with
  | .refused r => some r
  | _ => none

/-- What an instruction leaves in the keyboard's queue. -/
def kbQueueAfter (i : Instr) (s : State) : Option (List Packet) := (nextOf (exec i s)).map (·.kbLink.q)

/-- What an instruction leaves in the mouse's queue. -/
def msQueueAfter (i : Instr) (s : State) : Option (List Packet) := (nextOf (exec i s)).map (·.msLink.q)

/-- The keyboard's registers after an instruction. -/
def kbAfter (i : Instr) (s : State) : Option KbState := (nextOf (exec i s)).map (·.kb)

/-- The mouse's registers after an instruction. -/
def msAfter (i : Instr) (s : State) : Option MsState := (nextOf (exec i s)).map (·.ms)

/-- The reset state with other keyboard registers. -/
def kbState (f : KbState → KbState) : State := { State.reset with kb := f State.reset.kb }

/-- The reset state with other mouse registers. -/
def msState (f : MsState → MsState) : State := { State.reset with ms := f State.reset.ms }

/-- `QCAP = 1` and both queues full (95 section 2.10). -/
def fullState : State :=
  { State.reset with
    cfg := { sampleConfig with qcap := ⟨1, by decide⟩ }
    kbLink := { Link.empty with q := [[0x1C]] }
    msLink := { Link.empty with q := [[0xFA]] } }

/-- Set 3 selected. -/
def set3State : State := kbState fun k => { k with scanCodeSet := .set3 }

/-- A held by the user and by the repeat (95 section 2.5). -/
def heldState : State := kbState fun k => { k with heldKey := some 0x04, timer := .delay, prevKeys := [0x04] }

/-- A streaming mouse with the accumulator given. -/
def streaming (t : DeviceType) (stationary : Bool) (a : MouseAcc) : State :=
  msState fun m => { m with mode := .streaming, deviceType := t, stationary := stationary, acc := a }

/-- A block that has not been mounted. -/
def unmounted : State := { State.reset with mounted := false }

/-- Right Ctrl's code half sent, a reply waiting, a key held, the motion of one report accumulated. -/
def busyState : State :=
  { heldState with
    kbLink := ⟨[[0xE0, 0x14], [0xFA]], 1, some 0xE0, [0x5C0]⟩
    ms := { State.reset.ms with mode := .streaming, acc := ⟨300, -5, 0, 0x01⟩ } }

/-! ## Well-formed terms -/

theorem test_wf_refuses_kb_command_as_unknown : Instr.wf (.kbUnknown 0xFF) = false := by decide
theorem test_wf_refuses_kb_readid_as_unknown : Instr.wf (.kbUnknown 0xF2) = false := by decide
theorem test_wf_refuses_ms_command_as_unknown : Instr.wf (.msUnknown 0xF4) = false := by decide
theorem test_wf_refuses_ms_status_as_unknown : Instr.wf (.msUnknown 0xE9) = false := by decide
theorem test_wf_accepts_unknown :
    Instr.wf (.kbUnknown 0xF1) = true ∧ Instr.wf (.kbUnknown 0xE9) = true ∧ Instr.wf (.msUnknown 0xFE) = true := by decide

/-! ## Decoding: words written out from 30_encoding.md R102, R103, R107, R110, R120 -/

theorem test_decode_frame_encode : decode ⟨.idle, .idle⟩ (.frameOut 0b11111110100) = .ok (.frameEncode 0xFA) := by decide
theorem test_decode_frame_encode_rejects : decode ⟨.idle, .idle⟩ (.frameOut 0b10111110100) = .reject .notAFrame := by decide
theorem test_decode_frame_decode : decode ⟨.idle, .idle⟩ (.frameIn 0b10111110100) = .ok (.frameDecode 0x5F4) := by decide
theorem test_decode_kb_reset : decode ⟨.idle, .rate⟩ (.hostByte .kb 0b11111111) = .ok .kbReset := by decide
theorem test_decode_kb_resend : decode ⟨.idle, .idle⟩ (.hostByte .kb 0b11111110) = .ok .kbResend := by decide
theorem test_decode_kb_keymake : decode ⟨.idle, .idle⟩ (.hostByte .kb 0b11111101) = .ok .kbKeymake := by decide
theorem test_decode_kb_keymakebreak : decode ⟨.idle, .idle⟩ (.hostByte .kb 0b11111100) = .ok .kbKeymakebreak := by decide
theorem test_decode_kb_keytypematic : decode ⟨.idle, .idle⟩ (.hostByte .kb 0b11111011) = .ok .kbKeytypematic := by decide
theorem test_decode_kb_alltmb : decode ⟨.idle, .idle⟩ (.hostByte .kb 0b11111010) = .ok .kbAlltmb := by decide
theorem test_decode_kb_allmake : decode ⟨.idle, .idle⟩ (.hostByte .kb 0b11111001) = .ok .kbAllmake := by decide
theorem test_decode_kb_allmakebreak : decode ⟨.idle, .idle⟩ (.hostByte .kb 0b11111000) = .ok .kbAllmakebreak := by decide
theorem test_decode_kb_alltypematic : decode ⟨.idle, .idle⟩ (.hostByte .kb 0b11110111) = .ok .kbAlltypematic := by decide
theorem test_decode_kb_setdefaults : decode ⟨.idle, .idle⟩ (.hostByte .kb 0b11110110) = .ok .kbSetdefaults := by decide
theorem test_decode_kb_disable : decode ⟨.idle, .idle⟩ (.hostByte .kb 0b11110101) = .ok .kbDisable := by decide
theorem test_decode_kb_enable : decode ⟨.idle, .idle⟩ (.hostByte .kb 0b11110100) = .ok .kbEnable := by decide
theorem test_decode_kb_settypematic : decode ⟨.idle, .idle⟩ (.hostByte .kb 0b11110011) = .ok .kbSettypematic := by decide
theorem test_decode_kb_readid : decode ⟨.idle, .idle⟩ (.hostByte .kb 0b11110010) = .ok .kbReadid := by decide
theorem test_decode_kb_setscanset : decode ⟨.idle, .idle⟩ (.hostByte .kb 0b11110000) = .ok .kbSetscanset := by decide
theorem test_decode_kb_echo : decode ⟨.idle, .idle⟩ (.hostByte .kb 0b11101110) = .ok .kbEcho := by decide
theorem test_decode_kb_setleds : decode ⟨.idle, .idle⟩ (.hostByte .kb 0b11101101) = .ok .kbSetleds := by decide
theorem test_decode_kb_unknown :
    decode ⟨.idle, .idle⟩ (.hostByte .kb 0b11110001) = .ok (.kbUnknown 0xF1) ∧
    decode ⟨.idle, .idle⟩ (.hostByte .kb 0b11101100) = .ok (.kbUnknown 0xEC) := by decide
theorem test_decode_kb_led : decode ⟨.led, .idle⟩ (.hostByte .kb 0b11111111) = .ok (.kbPLed 0xFF) := by decide
theorem test_decode_kb_typematic :
    decode ⟨.typematic, .idle⟩ (.hostByte .kb 0b10101011) = .ok (.kbPTypematic 0b1 0b01 0b01011) := by decide
theorem test_decode_kb_scanset : decode ⟨.scanSet, .idle⟩ (.hostByte .kb 0b00000011) = .ok (.kbPScanset 3) := by decide
theorem test_decode_kb_keymode :
    decode ⟨.keyMode .makeBreak, .idle⟩ (.hostByte .kb 0b00110010) = .ok (.kbPKeymode .makeBreak 0x32) := by decide
theorem test_decode_ms_reset : decode ⟨.led, .idle⟩ (.hostByte .ms 0b11111111) = .ok .msReset := by decide
theorem test_decode_ms_setdefaults : decode ⟨.idle, .idle⟩ (.hostByte .ms 0b11110110) = .ok .msSetdefaults := by decide
theorem test_decode_ms_disable : decode ⟨.idle, .idle⟩ (.hostByte .ms 0b11110101) = .ok .msDisable := by decide
theorem test_decode_ms_enable : decode ⟨.idle, .idle⟩ (.hostByte .ms 0b11110100) = .ok .msEnable := by decide
theorem test_decode_ms_setrate : decode ⟨.idle, .idle⟩ (.hostByte .ms 0b11110011) = .ok .msSetrate := by decide
theorem test_decode_ms_getid : decode ⟨.idle, .idle⟩ (.hostByte .ms 0b11110010) = .ok .msGetid := by decide
theorem test_decode_ms_setstream : decode ⟨.idle, .idle⟩ (.hostByte .ms 0b11101010) = .ok .msSetstream := by decide
theorem test_decode_ms_status : decode ⟨.idle, .idle⟩ (.hostByte .ms 0b11101001) = .ok .msStatus := by decide
theorem test_decode_ms_unknown :
    decode ⟨.idle, .idle⟩ (.hostByte .ms 0b11111110) = .ok (.msUnknown 0xFE) ∧
    decode ⟨.idle, .idle⟩ (.hostByte .ms 0b11101110) = .ok (.msUnknown 0xEE) := by decide
theorem test_decode_ms_rate : decode ⟨.idle, .rate⟩ (.hostByte .ms 0b11001000) = .ok (.msPRate 200) := by decide
theorem test_decode_mount : decode ⟨.idle, .idle⟩ .mount = .ok .evMount := by decide
theorem test_decode_rxframe : decode ⟨.idle, .idle⟩ (.rxFrame .ms 0b11111111110) = .ok (.evRxframe .ms 0x7FE) := by decide
theorem test_decode_parityerror : decode ⟨.idle, .idle⟩ (.parityError .kb) = .ok (.evParityerror .kb) := by decide
theorem test_decode_tx : decode ⟨.idle, .idle⟩ (.tx .ms) = .ok (.evTx .ms) := by decide
theorem test_decode_kbreport :
    decode ⟨.idle, .idle⟩ (.kbBoot [0x02, 0x00, 0x04, 0x05, 0x00, 0x00, 0x00, 0x00]) =
      .ok (.evKbreport (.boot 0x02 0x00 0x04 0x05 0x00 0x00 0x00 0x00)) ∧
    decode ⟨.idle, .idle⟩ (.kbNkro [0x10, 0b01010000]) = .ok (.evKbreport (.nkro 0x10 [0b01010000])) := by decide
theorem test_decode_kbreport_rejects :
    decode ⟨.idle, .idle⟩ (.kbBoot [0x02, 0x00, 0x04]) = .reject .reportLength := by decide
theorem test_decode_msreport :
    decode ⟨.idle, .idle⟩ (.msBoot [0x01, 0x05, 0xFD, 0x00]) = .ok (.evMsreport (.boot 0x01 0x05 0xFD 0x00)) ∧
    decode ⟨.idle, .idle⟩ (.msExt 0x03 200 (-5) 1) = .ok (.evMsreport (.extracted 0x03 200 (-5) 1)) := by decide
theorem test_decode_msreport_rejects : decode ⟨.idle, .idle⟩ (.msBoot []) = .reject .reportLength := by decide
theorem test_decode_kbtick : decode ⟨.idle, .idle⟩ .kbTick = .ok .evKbtick := by decide
theorem test_decode_mstick : decode ⟨.idle, .idle⟩ .msTick = .ok .evMstick := by decide
theorem test_decode_mspkt3 :
    decode ⟨.idle, .idle⟩ (.packet .standard [0b00101001, 0b00000101, 0b11111101]) = .ok (.mspkt3 0b001 5 3) := by decide
theorem test_decode_mspkt3_rejects :
    decode ⟨.idle, .idle⟩ (.packet .standard [0b00100001, 0b00000101, 0b11111101]) = .reject .notAPacket := by decide
theorem test_decode_mspkt4_wheel3 :
    decode ⟨.idle, .idle⟩ (.packet .wheel3 [0b00111001, 0b11111011, 0b11111101, 0b11111111]) =
      .ok (.mspkt4Wheel3 0b001 (-5) 3 (-1)) := by decide
theorem test_decode_mspkt4_wheel5 :
    decode ⟨.idle, .idle⟩ (.packet .wheel5 [0b00001000, 0b00000000, 0b00000000, 0b00111111]) =
      .ok (.mspkt4Wheel5 0b11000 0 0 (-1)) := by decide

/-- The eight patterns of KB.UNKNOWN and the twelve of MS.UNKNOWN at their least and greatest bytes. -/
theorem test_unknown_patterns :
    ∀ b ∈ ([0xF1, 0xEF, 0xEC, 0xE8, 0xEB, 0xE0, 0xE7, 0xC0, 0xDF, 0x80, 0xBF, 0x00, 0x7F] : List Byte),
      decodeKbCommand b = .kbUnknown b := by decide +kernel
theorem test_ms_unknown_patterns :
    ∀ b ∈ ([0xFE, 0xFC, 0xFD, 0xF8, 0xFB, 0xF7, 0xF0, 0xF1, 0xEC, 0xEF, 0xEB, 0xE8, 0xE0, 0xE7, 0xC0, 0xDF, 0x80, 0xBF, 0x00,
      0x7F] : List Byte), decodeMsCommand b = .msUnknown b := by decide +kernel

/-- Bare words of the opcode table. -/
theorem test_table_words :
    decodeTableWord 8 0xED = some .kbSetleds ∧ decodeTableWord 16 0x7F4 = some (.frameDecode 0x7F4) ∧
    decodeTableWord 24 0x2905FD = some (.mspkt3 1 5 3) ∧
    decodeTableWord 32 0x39FBFDFF = some (.mspkt4Wheel3 1 (-5) 3 (-1)) ∧
    decodeTableWord 32 0x0800003F = some (.mspkt4Wheel5 0b11000 0 0 (-1)) := by decide

/-- A bare word placed at the fetch runs as the next step. -/
theorem test_table_word_runs :
    (nextOf (step (State.reset.withFetchWord 8 0xEE))).map (·.kbLink.q) = some [[0xEE]] ∧
    (nextOf (step (State.reset.withFetchWord 24 0x2905FD))).map (·.result) =
      some (some (.packet [0x29, 0x05, 0xFD])) := by decide

/-! ## The frame codec: 95 sections 2.1 and 2.2 -/

theorem test_frame_encode : encodeFrame 0xFA = 0x7F4 ∧ encodeFrame 0xAB = 0x556 ∧ encodeFrame 0x00 = 0x600 := by decide
theorem test_frame_encode_result :
    (nextOf (exec (.frameEncode 0x83) State.reset)).map (·.result) = some (some (.frame 0x506)) := by decide
theorem test_frame_decode_valid : decodeFrame 0x7FE = .ok 0xFF ∧ decodeFrame 0x5EE = .ok 0xF7 := by decide
theorem test_frame_decode_errors :
    ∀ f ∈ ([0x000, 0x7FF, 0x400, 0x5F4, 0x7F5, 0x3F4] : List Frame), decodeFrame f = .parityError := by decide +kernel

/-! ## Keyboard commands: 95 section 2.4 -/

theorem test_kb_reset_reply : kbQueueAfter .kbReset fullState = some [[0xFA, 0xAA, 0x00]] := by decide
theorem test_kb_reset_set :
    (kbAfter .kbReset { set3State with kb := { set3State.kb with ledMask := 7, enabled := false } }).map
      (fun k => (k.scanCodeSet, k.enabled, k.ledMask)) = some (.set2, true, 0x00) := by decide
theorem test_kb_resend : kbQueueAfter .kbResend busyState = some [[0xE0, 0x14], [0xFA], [0xE0]] := by decide
theorem test_kb_resend_before_any : kbQueueAfter .kbResend State.reset = some [] := by decide
theorem test_kb_echo : kbQueueAfter .kbEcho State.reset = some [[0xEE]] := by decide
theorem test_kb_readid : kbQueueAfter .kbReadid State.reset = some [[0xAB, 0x83]] := by decide
theorem test_kb_enable :
    (kbAfter .kbEnable (kbState fun k => { k with enabled := false })).map (·.enabled) = some true := by decide
theorem test_kb_enable_acks : kbQueueAfter .kbEnable State.reset = some [[0xFA]] := by decide
theorem test_kb_disable_keeps_set :
    (kbAfter .kbDisable set3State).map (fun k => (k.scanCodeSet, k.enabled)) = some (.set3, false) := by decide
theorem test_kb_disable_cancels :
    (kbAfter .kbDisable heldState).map (fun k => (k.heldKey, k.timer)) = some (none, .off) := by decide
theorem test_kb_setdefaults :
    (kbAfter .kbSetdefaults set3State).map (fun k => (k.scanCodeSet, k.enabled)) = some (.set2, true) := by decide
theorem test_kb_setdefaults_no_flush : kbQueueAfter .kbSetdefaults busyState = some [[0xE0, 0x14], [0xFA], [0xFA]] := by decide
theorem test_kb_setleds : (kbAfter .kbSetleds State.reset).map (·.pending) = some .led := by decide
theorem test_kb_settypematic : (kbAfter .kbSettypematic State.reset).map (·.pending) = some .typematic := by decide
theorem test_kb_setscanset : (kbAfter .kbSetscanset State.reset).map (·.pending) = some .scanSet := by decide
theorem test_kb_alltypematic_set2 :
    (nextOf (exec .kbAlltypematic State.reset)).map (fun t => (t.kbLink.q, t.kb.keyMode[0x1C])) =
      some ([[0xFA]], ⟨true, true⟩) := by decide +kernel
theorem test_kb_alltypematic : (kbAfter .kbAlltypematic set3State).map (·.keyMode[0xFF]) = some ⟨false, true⟩ := by decide +kernel
theorem test_kb_allmakebreak : (kbAfter .kbAllmakebreak set3State).map (·.keyMode[0x00]) = some ⟨true, false⟩ := by decide +kernel
theorem test_kb_allmake : (kbAfter .kbAllmake set3State).map (·.keyMode[0x1C]) = some ⟨false, false⟩ := by decide +kernel
theorem test_kb_alltmb :
    (kbAfter .kbAlltmb { set3State with kb := { set3State.kb with keyMode := Vector.replicate 256 ⟨false, false⟩ } }).map
      (·.keyMode[0x1C]) = some ⟨true, true⟩ := by decide +kernel
theorem test_kb_keytypematic : (kbAfter .kbKeytypematic set3State).map (·.pending) = some (.keyMode .makeTypematic) := by decide
theorem test_kb_keytypematic_set2 : (kbAfter .kbKeytypematic State.reset).map (·.pending) = some .idle := by decide
theorem test_kb_keymakebreak : (kbAfter .kbKeymakebreak set3State).map (·.pending) = some (.keyMode .makeBreak) := by decide
theorem test_kb_keymake : (kbAfter .kbKeymake set3State).map (·.pending) = some (.keyMode .make) := by decide
theorem test_kb_unknown : kbQueueAfter (.kbUnknown 0xE9) State.reset = some [[0xFA]] := by decide
theorem test_kb_unknown_resend :
    kbQueueAfter (.kbUnknown 0x00) { State.reset with cfg := { sampleConfig with unknownPolicy := .resend } } =
      some [[0xFE]] := by decide

/-! ## Keyboard parameters: 95 section 2.4 -/

theorem test_kb_led : (kbAfter (.kbPLed 0xFF) State.reset).map (fun k => (k.ledMask, k.pending)) = some (0xFF, .idle) := by decide
theorem test_kb_led_sink : (nextOf (exec (.kbPLed 0x02) State.reset)).map (·.leds) = some [0x02] := by decide
theorem test_kb_typematic_20 :
    (kbAfter (.kbPTypematic 0 1 0) State.reset).map (fun k => (k.repeatIntervalUs, k.repeatDelayMs)) = some (33333, 500) := by
  decide +kernel
theorem test_kb_typematic_7F :
    (kbAfter (.kbPTypematic 0 3 31) State.reset).map (fun k => (k.repeatIntervalUs, k.repeatDelayMs)) =
      some (500000, 1000) := by decide +kernel
theorem test_kb_scanset_query : kbQueueAfter (.kbPScanset 0) State.reset = some [[0x02]] := by decide
theorem test_kb_scanset_other : (kbAfter (.kbPScanset 7) set3State).map (·.scanCodeSet) = some .set2 := by decide
theorem test_kb_keymode :
    (kbAfter (.kbPKeymode .makeBreak 0x32) set3State).map (fun k => (k.keyMode[0x32], k.keyMode[0x33])) =
      some (⟨true, false⟩, ⟨true, true⟩) := by decide +kernel
theorem test_kb_keymode_top :
    (kbAfter (.kbPKeymode .make 0xFF) set3State).map (·.keyMode[0xFF]) = some ⟨false, false⟩ := by decide +kernel

/-! ## Mouse commands: 95 section 2.6 -/

theorem test_ms_reset : msQueueAfter .msReset fullState = some [[0xFA, 0xAA, 0x00]] := by decide
theorem test_ms_reset_type : (msAfter .msReset (msState fun m => { m with deviceType := .wheel5 })).map (·.deviceType) =
    some .standard := by decide
theorem test_ms_setdefaults :
    (msAfter .msSetdefaults (msState fun m => { m with window := 0x00C864, sampleRate := 0x64 })).map
      (fun m => (m.window, m.sampleRate)) = some (0, 100) := by decide
theorem test_ms_disable : (msAfter .msDisable (streaming .standard true ⟨5, 0, 0, 0⟩)).map (fun m => (m.mode, m.acc.dx)) =
    some (.idle, 5) := by decide
theorem test_ms_setstream : (msAfter .msSetstream (streaming .standard true ⟨5, 0, 0, 0⟩)).map (·.mode) = some .idle := by decide
theorem test_ms_enable : (msAfter .msEnable State.reset).map (·.mode) = some .streaming := by decide
theorem test_ms_setrate : (msAfter .msSetrate State.reset).map (·.pending) = some .rate := by decide
theorem test_ms_getid :
    msQueueAfter .msGetid State.reset = some [[0xFA, 0x00]] ∧
    msQueueAfter .msGetid (msState fun m => { m with deviceType := .wheel3 }) = some [[0xFA, 0x03]] := by decide
theorem test_ms_status : msQueueAfter .msStatus State.reset = some [[0xFA, 0x00, 0x02, 0x64]] := by decide
theorem test_ms_status_streaming :
    msQueueAfter .msStatus (msState fun m => { m with mode := .streaming, sampleRate := 80 }) =
      some [[0xFA, 0x20, 0x02, 0x50]] := by decide
theorem test_ms_unknown : msQueueAfter (.msUnknown 0xFE) State.reset = some [[0xFA]] := by decide
theorem test_ms_rate_promotes :
    (msAfter (.msPRate 80) (msState fun m => { m with window := 0xC8C864 })).map (fun m => (m.deviceType, m.window)) =
      some (.wheel3, 0xC86450) := by decide
theorem test_ms_rate_knock5_from_standard :
    (msAfter (.msPRate 80) (msState fun m => { m with window := 0x00C8C8 })).map (fun m => (m.deviceType, m.window)) =
      some (.standard, 0xC8C850) := by decide

/-! ## Events: 95 sections 2.5, 2.7 to 2.10 -/

theorem test_mount : (nextOf (exec .evMount { unmounted with leds := [0x07], kb := heldState.kb })).map
    (fun t => (t.leds, t.kb.heldKey, t.mounted)) = some ([], none, true) := by decide
theorem test_mount_once : refusalOf (exec .evMount State.reset) = some .mountedAlready := by decide
theorem test_rxframe_runs_command : kbQueueAfter (.evRxframe .kb 0x5E4) State.reset = some [[0xAB, 0x83]] := by decide
theorem test_rxframe_parity_keeps_pending :
    (nextOf (exec (.evRxframe .kb 0x604) (kbState fun k => { k with pending := .led }))).map
      (fun t => (t.kb.pending, t.kbLink.q)) = some (.led, [[0xFE]]) := by decide
theorem test_parityerror : msQueueAfter (.evParityerror .ms) State.reset = some [[0xFE]] := by decide
theorem test_parityerror_full : kbQueueAfter (.evParityerror .kb) fullState = some [[0x1C]] := by decide
theorem test_tx_last_byte :
    (nextOf (exec (.evTx .kb) busyState)).map (·.kbLink) =
      some ⟨[[0xFA]], 0, some 0x14, [0x5C0, 0x628]⟩ := by decide
theorem test_tx_disabled : refusalOf (exec (.evTx .ms) State.reset) = some (.txNotEnabled .ms) := by decide
theorem test_kbreport_order :
    kbQueueAfter (.evKbreport (.boot 0x00 0x00 0x05 0x06 0x00 0x00 0x00 0x00))
      (kbState fun k => { k with prevKeys := [0x04, 0x05] }) = some [[0xF0, 0x1C], [0x21]] ∧
    kbQueueAfter (.evKbreport (.nkro 0x00 [0b01010000])) State.reset = some [[0x1C], [0x21]] := by decide +kernel
theorem test_kbreport_modifier :
    (nextOf (exec (.evKbreport (.boot 0x10 0x00 0x00 0x00 0x00 0x00 0x00 0x00))
      (kbState fun k => { k with prevKeys := [0x04] }))).map (fun t => (t.kbLink.q, t.kb.heldKey)) =
      some ([[0xE0, 0x14], [0xF0, 0x1C]], none) := by decide +kernel
theorem test_msreport :
    (msAfter (.evMsreport (.boot 0x01 0x05 0xFD 0x00)) State.reset).map (·.acc) = some ⟨5, -3, 0, 0x01⟩ ∧
    (msAfter (.evMsreport (.extracted 0xFF (-1000) 0 (-200))) State.reset).map (·.acc) = some ⟨-128, 0, -128, 0x1F⟩ := by decide
theorem test_msreport_saturates :
    (msAfter (.evMsreport (.boot 0x00 0x7F 0x00 0x00)) (msState fun m => { m with acc := ⟨32766, 0, 0, 0⟩ })).map
      (·.acc.dx) = some 32767 := by decide
theorem test_kbtick :
    (nextOf (exec .evKbtick heldState)).map (fun t => (t.kbLink.q, t.kb.timer)) = some ([[0x1C]], .repeating) := by decide +kernel
theorem test_kbtick_disabled : refusalOf (exec .evKbtick State.reset) = some .kbTickNotEnabled := by decide
theorem test_mstick_standard :
    (nextOf (exec .evMstick (streaming .standard true ⟨-300, 0, 0, 0x00⟩))).map
      (fun t => (t.msLink.q, t.ms.acc.dx, t.ms.stationary)) = some ([[0x18, 0x80, 0x00]], -172, false) := by decide
theorem test_mstick_suppressed_drains_wheel :
    (nextOf (exec .evMstick (streaming .standard true ⟨0, 0, 5, 0x00⟩))).map (fun t => (t.msLink.q, t.ms.acc.dwheel)) =
      some ([], 0) := by decide
/-- Other bounds in the configuration (93 U4). -/
theorem test_mstick_bounds :
    (nextOf (exec .evMstick { streaming .standard true ⟨300, 0, 0, 0x00⟩ with
      cfg := { sampleConfig with xyMax := ⟨100, by decide⟩ } })).map (fun t => (t.msLink.q, t.ms.acc.dx)) =
      some ([[0x08, 0x64, 0x00]], 200) := by decide
theorem test_mspkt3 :
    (nextOf (exec (.mspkt3 1 5 3) State.reset)).map (·.result) = some (some (.packet [0x29, 0x05, 0xFD])) := by decide
theorem test_mspkt4_wheel3 :
    (nextOf (exec (.mspkt4Wheel3 0 (-128) 127 7) State.reset)).map (·.result) =
      some (some (.packet [0x38, 0x80, 0x81, 0x07])) := by decide
theorem test_mspkt4_wheel5 :
    (nextOf (exec (.mspkt4Wheel5 0b10000 0 0 0) State.reset)).map (·.result) =
      some (some (.packet [0x08, 0x00, 0x00, 0x20])) := by decide

/-! ## Witnesses: states and operands that meet the hypotheses of the statements -/

theorem witness_FramesRoundTrip : decodeFrame 0x7F4 = .ok 0xFA := by decide

/-- The three clauses of the statement at the boundary `QCAP = 1`. -/
theorem witness_EnqueueIsAllOrNothing :
    ([0xFA] : Packet) ≠ [] ∧ fullState.cfg.qcap.val ≤ (fullState.link .kb).q.length ∧
    ({ fullState with kbLink := Link.empty }.link .kb).q.length < { fullState with kbLink := Link.empty }.cfg.qcap.val := by
  decide

theorem witness_TxTransmitsTheNextByte_last :
    (busyState.link .kb).q = [0xE0, 0x14] :: [[0xFA]] ∧ ([0xE0, 0x14] : Packet)[(busyState.link .kb).sent]? = some 0x14 := by
  decide
theorem witness_TxTransmitsTheNextByte_first :
    (fullState.link .ms).q = [0xFA] :: [] ∧ ([0xFA] : Packet)[(fullState.link .ms).sent]? = some 0xFA := by decide

theorem witness_DisabledEventsAreRefused :
    (State.reset.link .kb).q = [] ∧ (State.reset.link .ms).q = [] ∧ State.reset.kb.timer = .off ∧
    State.reset.ms.mode = .idle ∧ State.reset.mounted = true := by decide

/-- One frame for each of the three checks. -/
theorem witness_ParityErrorOnlyQueuesResend :
    decodeFrame 0x7F5 = .parityError ∧ decodeFrame 0x3F4 = .parityError ∧ decodeFrame 0x5F4 = .parityError := by decide

theorem witness_ReceivedByteRunsItsInstruction :
    decodeFrame 0x404 = .ok 0x02 ∧ decode ⟨.led, .idle⟩ (.hostByte .kb 0x02) = .ok (.kbPLed 0x02) := by decide

theorem witness_KbResendRetransmitsTheLastByte :
    busyState.kbLink.lastByteSent = some 0xE0 ∧ State.reset.kbLink.lastByteSent = none := by decide

theorem witness_AllKeyModeCommands :
    (Instr.kbAlltmb, (⟨true, true⟩ : KeyMode)) ∈ [(Instr.kbAlltypematic, (⟨false, true⟩ : KeyMode)),
      (.kbAllmakebreak, ⟨true, false⟩), (.kbAllmake, ⟨false, false⟩), (.kbAlltmb, ⟨true, true⟩)] ∧
    set3State.kb.scanCodeSet = .set3 ∧ State.reset.kb.scanCodeSet ≠ .set3 := by decide
theorem witness_OneKeyModeCommands :
    (Instr.kbKeymake, KeySel.make) ∈ [(Instr.kbKeytypematic, KeySel.makeTypematic), (.kbKeymakebreak, .makeBreak),
      (.kbKeymake, .make)] := by decide

theorem witness_KbPendingTransitionTable :
    State.reset.cfg.unknownPolicy = .ack ∧ fullState.cfg.unknownPolicy = .ack := by decide

theorem witness_LedSinkFollowsTheMask :
    Instr.kbPLed 0x05 ≠ .evMount ∧ (nextOf (exec (.kbPLed 0x05) State.reset)).isSome = true := by decide

/-- The same keys in another order, with another reserved byte. -/
theorem witness_SameKeysAgainMakeNoEvent :
    (normReport .standard (.boot 0x00 0xFF 0x06 0x05 0x00 0x00 0x00 0x00)).mods =
      (normReport .standard (.boot 0x00 0x00 0x05 0x06 0x00 0x00 0x00 0x00)).mods ∧
    (∀ u : Byte, u ∈ (normReport .standard (.boot 0x00 0xFF 0x06 0x05 0x00 0x00 0x00 0x00)).keys ↔
      u ∈ (normReport .standard (.boot 0x00 0x00 0x05 0x06 0x00 0x00 0x00 0x00)).keys) ∧
    (normReport .standard (.boot 0x00 0xFF 0x06 0x05 0x00 0x00 0x00 0x00)).keys ≠
      (normReport .standard (.boot 0x00 0x00 0x05 0x06 0x00 0x00 0x00 0x00)).keys := by
  refine ⟨by decide, fun u => ?_, by decide⟩
  rw [show (normReport .standard (.boot 0x00 0xFF 0x06 0x05 0x00 0x00 0x00 0x00)).keys = [0x06, 0x05] by decide,
    show (normReport .standard (.boot 0x00 0x00 0x05 0x06 0x00 0x00 0x00 0x00)).keys = [0x05, 0x06] by decide]
  simp [or_comm]

/-- Two layouts of a roll-over report: the default (95 section 2.8), one with the modifiers in byte 1 and one key bit beyond the
report's end. -/
theorem test_nkro_layouts :
    (normReport .standard (.nkro 0x10 [0b01010000])) = ⟨0x10, [0x04, 0x06]⟩ ∧
    (normReport (.bits #v[⟨1, 0⟩, ⟨1, 1⟩, ⟨1, 2⟩, ⟨1, 3⟩, ⟨1, 4⟩, ⟨1, 5⟩, ⟨1, 6⟩, ⟨1, 7⟩] [(0x05, ⟨0, 7⟩), (0x04, ⟨9, 0⟩)])
      (.nkro 0x80 [0x03])) = ⟨0x03, [0x05]⟩ := by decide +kernel

/-- A press while two other keys are down is sent and held. -/
theorem test_third_key_pressed :
    (nextOf (exec (.evKbreport (.boot 0x00 0x00 0x04 0x05 0x06 0x00 0x00 0x00))
      (kbState fun k => { k with prevKeys := [0x04, 0x05] }))).map (fun t => (t.kbLink.q, t.kb.heldKey)) =
      some ([[0x21]], some 0x06) := by decide +kernel

theorem witness_DisabledKeyboardDropsKeyEvents :
    (kbState fun k => { k with enabled := false }).kb.enabled = false := by decide

/-- The reset state meets the hypotheses; A is held, usage `0x03` has no row and no code, Left Ctrl and Pause are not held. -/
theorem witness_OneKeyPressed :
    State.reset.kb.enabled = true ∧ State.reset.kb.prevKeys = [] ∧ (0x04 : Byte) ≠ 0x00 ∧
    (∀ r ∈ sampleScanTable, r.usage ≠ 0x03) ∧ makeCode State.reset.cfg .set2 0x03 = [] ∧
    makeCode State.reset.cfg .set2 0xE0 ≠ [] ∧ makeCode State.reset.cfg .set2 0x48 ≠ [] := by decide
/-- A second row of a usage does not count; the row is the fourth of the table. -/
theorem witness_OneKeyPressed_row :
    sampleScanTable = sampleScanTable.take 3 ++ sampleRow 0x28 [0x1C] [0x5A] [0x5A] :: sampleScanTable.drop 4 ∧
    (∀ q ∈ sampleScanTable.take 3, q.usage ≠ 0x28) ∧ makeCode sampleConfig .set1 0x28 = [0x1C] ∧
    makeCode { sampleConfig with scanTable := [sampleRow 0x28 [0x01] [0x02] [0x03], sampleRow 0x28 [0x04] [] []] } .set3 0x28 =
      [0x03] := by decide +kernel
/-- Set 3 with the key mode of A set to make only: typed, not held. -/
theorem witness_OneKeyPressed_set3 :
    (kbAfter (.evKbreport (.boot 0x00 0x00 0x04 0x00 0x00 0x00 0x00 0x00))
      { set3State with kb := { set3State.kb with keyMode := Vector.replicate 256 ⟨false, false⟩ } }).map (·.heldKey) =
      some none := by decide +kernel

theorem witness_OneKeyReleased :
    heldState.kb.enabled = true ∧ heldState.kb.prevKeys = [0x04] ∧ (0x04 : Byte) ≠ 0x00 ∧
    heldState.kb.heldKey = some 0x04 := by decide
/-- Pause has no break code even where its row has one. -/
theorem witness_OneKeyReleased_pause :
    breakCode { sampleConfig with scanTable := [⟨0x48, [0x01], [0x02], [0x03], [0x04], [0x05], [0x06]⟩] } .set3 0x48 = [] ∧
    breakCode sampleConfig .set2 0x28 = [0xF0, 0x5A] := by decide
theorem witness_OneKeyReleased_not_held :
    (kbState fun k => { k with prevKeys := [0x04] }).kb.prevKeys = [0x04] ∧
    (kbState fun k => { k with prevKeys := [0x04] }).kb.heldKey ≠ some 0x04 := by decide

theorem witness_KbTickRepeatsTheHeldKey : heldState.kb.timer ≠ .off ∧ heldState.kb.heldKey = some 0x04 := by decide

theorem witness_ReleaseCancelsTheRepeat :
    (kbAfter (.evKbreport (.boot 0x00 0x00 0x04 0x00 0x00 0x00 0x00 0x00)) State.reset).map (·.heldKey) =
      some (some 0x04) := by decide +kernel

theorem witness_TypematicTimerWriters :
    (nextOf (exec .kbEcho heldState)).isSome = true ∧ (∀ f, Instr.kbEcho ≠ .evRxframe .kb f) ∧
    (∀ r, Instr.kbEcho ≠ .evKbreport r) ∧
    Instr.kbEcho ∉ [Instr.evMount, .evKbtick, .kbReset, .kbDisable, .kbSetdefaults] := by
  refine ⟨by decide, fun f h => ?_, fun r h => ?_, by decide⟩ <;> cases h

theorem witness_HandshakePromotesFromAnyWindow :
    ((0x64 : Byte) = 0x64 ∨ (0x64 : Byte) = 0xC8) ∧ ((0xC8 : Byte) = 0x64 ∨ (0xC8 : Byte) = 0xC8) ∧
    State.reset.ms.pending = .idle := by decide

/-- A reset takes the type back, the set-rate command does not. -/
theorem witness_DeviceTypeNeverRegresses :
    (msAfter .msReset (msState fun m => { m with deviceType := .wheel5 })).map (·.deviceType) = some .standard ∧
    resetsMs .msReset State.reset = true ∧ (msAfter .msSetrate State.reset).isSome = true := by decide

theorem witness_AllZeroIsAboutThePacketBytes :
    allZero 0 0 7 0xF8 .standard = true ∧ allZero 0 0 0 0x18 .wheel3 = true ∧ allZero 0 0 (-8) 0x00 .wheel5 = false ∧
    allZero (-128) 127 0 0x00 .standard = false := by decide

/-- The three outcomes of a tick: suppressed, sent, skipped by a full queue. -/
theorem witness_MsTickSendsOrSuppressesOrSkips :
    (streaming .standard true MouseAcc.zero).ms.mode = .streaming ∧
    msQueueAfter .evMstick (streaming .standard true MouseAcc.zero) = some [] ∧
    msQueueAfter .evMstick (streaming .wheel3 true ⟨0, 0, -20, 0x00⟩) = some [[0x08, 0x00, 0x00, 0xF8]] ∧
    msQueueAfter .evMstick { fullState with ms := (streaming .standard true ⟨10, 0, 0, 0x01⟩).ms } = some [[0xFA]] := by decide
theorem witness_MsTickCarriesWhatItDrains :
    (nextOf (exec .evMstick (streaming .wheel5 true ⟨0, 0, -1, 0x18⟩))).map (fun t => (t.msLink.q, t.ms.acc.dwheel)) =
      some ([[0x08, 0x00, 0x00, 0x3F]], 0) := by decide

theorem witness_CleanStopIsSentOnce :
    (streaming .standard false ⟨0, 0, 0, 0x00⟩).ms.mode = .streaming ∧
    (streaming .standard false ⟨0, 0, 0, 0x00⟩).ms.stationary = false ∧
    (streaming .standard false ⟨0, 0, 0, 0x00⟩).ms.acc = ⟨0, 0, 0, 0x00⟩ ∧
    (streaming .standard false ⟨0, 0, 0, 0x00⟩).msLink.q.length < (streaming .standard false ⟨0, 0, 0, 0x00⟩).cfg.qcap.val := by
  decide

theorem witness_EachInstructionStaysOnItsDevice :
    actsOn .msStatus .kb = false ∧ actsOn .kbReset .ms = false ∧ actsOn (.mspkt3 0 0 0) .kb = false ∧
    (nextOf (exec .msStatus busyState)).isSome = true ∧ (nextOf (exec .kbReset busyState)).isSome = true := by decide

/-- Two states that agree on the keyboard's side and not on the mouse's. -/
theorem witness_DevicesDoNotInfluenceEachOther :
    heldState.cfg = { heldState with ms := (streaming .wheel5 false ⟨1, 2, 3, 4⟩).ms }.cfg ∧
    heldState.ms ≠ (streaming .wheel5 false ⟨1, 2, 3, 4⟩).ms ∧
    (nextOf (exec .evKbtick heldState)).isSome = true ∧
    (nextOf (exec .evKbtick { heldState with ms := (streaming .wheel5 false ⟨1, 2, 3, 4⟩).ms })).isSome = true := by
  decide +kernel

theorem witness_TracesOnlyGrow :
    (nextOf (exec (.evTx .kb) busyState)).map (·.kbLink.wire) = some ([0x5C0] ++ [0x628]) := by decide

theorem witness_MountWritesEveryField : unmounted.mounted = false := by decide

theorem busyState_inv : StateInv busyState where
  kbLink := ⟨by decide, by decide, (by rintro p rest h; cases h; decide), (by intro h; cases h)⟩
  msLink := ⟨by decide, by decide, (by rintro p rest h; cases h), fun _ => rfl⟩
  kb := ⟨by decide, (by rintro u h; cases h; exact ⟨by decide, by decide, .set2, by decide⟩), by decide, by decide, by decide⟩
  acc := ⟨by decide, by decide, by decide⟩

/-- From a state that meets the invariant: an ordinary step, and the reset that flushes a packet half sent. -/
theorem witness_OutboundStreamOnlyGrows :
    StateInv busyState ∧ (nextOf (exec (.evTx .kb) busyState)).isSome = true ∧
    (nextOf (exec .kbReset busyState)).isSome = true ∧ resetsDev .kb .kbReset busyState = true :=
  ⟨busyState_inv, by decide, by decide, by decide⟩

theorem witness_EveryStepKeepsTheInvariant :
    StateInv { busyState with schedule := [.msTick] } ∧
    (nextOf (step { busyState with schedule := [.msTick] })).map (·.msLink.q) = some [[0x09, 0x7F, 0x05]] :=
  ⟨⟨busyState_inv.kbLink, busyState_inv.msLink, busyState_inv.kb, busyState_inv.acc⟩, by decide⟩

/-- An input for each clause. -/
theorem witness_StepRunsTheDecodedInstruction :
    State.reset.mounted = true ∧ decode ⟨State.reset.kb.pending, State.reset.ms.pending⟩ (.hostByte .kb 0xEE) = .ok .kbEcho ∧
    decode ⟨State.reset.kb.pending, State.reset.ms.pending⟩ (.kbBoot []) = .reject .reportLength ∧
    unmounted.mounted = false ∧ Input.kbTick ≠ .mount := by decide

theorem witness_DecodeAndEncodeAgree :
    Instr.wf (.kbUnknown 0xF1) = true ∧ Instr.admittedIn (.kbUnknown 0xF1) ⟨.idle, .rate⟩ = true ∧
    encode (.kbUnknown 0xF1) = .hostByte .kb 0xF1 := by decide

end Sys2Proof.Tests
end

section
/-! The values of State.reset (10_state.md R55, 00_scope.md R7): what its parts are, what each part holds, and O55. -/

namespace Sys2Proof.Machine

/-! ## The parts of State.reset -/

@[simp] theorem State.reset_cfg : State.reset.cfg = sampleConfig := rfl
@[simp] theorem State.reset_kb : State.reset.kb = KbState.afterMount sampleConfig := rfl
@[simp] theorem State.reset_kbLink : State.reset.kbLink = Link.empty := rfl
@[simp] theorem State.reset_ms : State.reset.ms = MsState.afterMount := rfl
@[simp] theorem State.reset_msLink : State.reset.msLink = Link.empty := rfl
@[simp] theorem State.reset_leds : State.reset.leds = [] := rfl

/-! ## What `Mount` leaves in each part (R55) -/

/-- The keyboard's rows of R55, under any configuration. -/
theorem KbState.afterMount_eq (cfg : Config) :
    KbState.afterMount cfg = {
      enabled := true, scanCodeSet := .set2, repeatIntervalUs := cfg.kbDefaultIntervalUs
      repeatDelayMs := cfg.kbDefaultDelayMs, ledMask := 0x00, heldKey := none, timer := .off, pending := .idle
      keyMode := Vector.replicate 256 ⟨true, true⟩, prevMods := 0x00, prevKeys := [] } := rfl

/-- The mouse's rows of R55. -/
theorem MsState.afterMount_eq :
    MsState.afterMount = {
      mode := .idle, pending := .idle, deviceType := .standard, sampleRate := 100, window := 0
      acc := { dx := 0, dy := 0, dwheel := 0, buttons := 0x00 }, stationary := true } := rfl

/-- A Link's rows of R55, with its trace (R12). -/
theorem Link.empty_eq : Link.empty = { q := [], sent := 0, lastByteSent := none, wire := [] } := rfl

/-! ## The configuration of State.reset (R7) -/

/-- The policy, the ids and the layout (D10, D11, D36, D30). -/
theorem sampleConfig_replies :
    sampleConfig.unknownPolicy = .ack ∧ sampleConfig.kbResetId = [0x00] ∧ sampleConfig.msIdWheel5 = 0x04 ∧
    sampleConfig.nkroLayout = .standard := ⟨rfl, rfl, rfl, rfl⟩

/-- The two typematic defaults (GK2, D16). -/
theorem sampleConfig_typematic :
    sampleConfig.kbDefaultIntervalUs = 91743 ∧ sampleConfig.kbDefaultDelayMs = 500 := ⟨rfl, rfl⟩

/-- The clamp bounds of a movement packet (D39). -/
theorem sampleConfig_bounds :
    sampleConfig.xyMin.val = -128 ∧ sampleConfig.xyMax.val = 127 ∧
    sampleConfig.zMin.val = -8 ∧ sampleConfig.zMax.val = 7 := ⟨rfl, rfl, rfl, rfl⟩

/-- Settles O55: State.reset is made of the parts that `Mount` writes, over `sampleConfig`, and each part has its
values. -/
theorem resetHasTheSpecsValues : Obligations.ResetHasTheSpecsValues := by
  obtain ⟨hpolicy, hid, hwheel5, hlayout⟩ := sampleConfig_replies
  obtain ⟨hinterval, hdelay⟩ := sampleConfig_typematic
  obtain ⟨hxyMin, hxyMax, hzMin, hzMax⟩ := sampleConfig_bounds
  rw [Obligations.ResetHasTheSpecsValues, State.reset_cfg]
  exact ⟨State.reset_leds, State.reset_kb.trans (KbState.afterMount_eq sampleConfig),
    State.reset_kbLink.trans Link.empty_eq, State.reset_ms.trans MsState.afterMount_eq,
    State.reset_msLink.trans Link.empty_eq, hpolicy, hid, hwheel5, hinterval, hdelay, hxyMin, hxyMax, hzMin, hzMax, hlayout⟩

end Sys2Proof.Machine
end

section
/-! The frame codec (40_frame_codec.md R141 to R147): when a frame decodes, what an XOR does to the number of its 1 bits,
and O4 and O3. -/

namespace Sys2Proof.Machine

/-! ## Parity of a count (R142) -/

/-- XOR of two predicates adds their counts modulo 2: where both hold, two 1 bits go. -/
theorem countP_xor_mod_two {α : Type} (p q : α → Bool) (l : List α) :
    l.countP (fun a => p a ^^ q a) % 2 = (l.countP p + l.countP q) % 2 := by
  induction l with
  | nil => rfl
  | cons a l ih => cases hp : p a <;> cases hq : q a <;> simp [hp, hq] <;> omega

/-- The parity bit is set exactly where the count of the data's 1 bits is even. -/
theorem parity_eq_ofBool (b : Byte) : parity b = BitVec.ofBool (decide (popcount b % 2 = 0)) := by
  unfold parity
  rcases Nat.mod_two_eq_zero_or_one (popcount b) with h | h <;> rw [h] <;> rfl

/-! ## The fields of a frame (R141) -/

/-- The number of 1 bits among `f[9:1]`, the data and the parity bit. -/
def frameOnes (f : Frame) : Nat := (List.range 9).countP (fun i => f.getLsbD (i + 1))

theorem frameOnes_eq_popcount (f : Frame) : frameOnes f = popcount (frameData f) + (f.getLsbD 9).toNat := by
  simp only [frameOnes, popcount, frameData, List.range_eq_range', List.range'_succ, List.range'_zero, List.countP_cons,
    List.countP_nil, BitVec.getLsbD_extractLsb', Bool.toNat, Bool.cond_eq_ite, Nat.reduceLT, Nat.reduceAdd, decide_true,
    Bool.true_and]
  ring

theorem frameOnes_xor (f m : Frame) : frameOnes (f ^^^ m) % 2 = (frameOnes f + frameOnes m) % 2 := by
  simp only [frameOnes, BitVec.getLsbD_xor]
  exact countP_xor_mod_two _ _ _

theorem extractLsb'_one_eq_ofBool (f : Frame) (i : Nat) : f.extractLsb' i 1 = BitVec.ofBool (f.getLsbD i) := by
  ext j hj
  obtain rfl : j = 0 := by omega
  simp

theorem startBit_eq_zero_iff (f : Frame) : f.extractLsb' 0 1 = 0#1 ↔ f.getLsbD 0 = false := by
  rw [extractLsb'_one_eq_ofBool]
  cases f.getLsbD 0 <;> decide

theorem stopBit_eq_one_iff (f : Frame) : f.extractLsb' 10 1 = 1#1 ↔ f.getLsbD 10 = true := by
  rw [extractLsb'_one_eq_ofBool]
  cases f.getLsbD 10 <;> decide

/-- The parity bit is that of the data exactly if `f[9:1]` holds an odd number of 1 bits. -/
theorem parityBit_eq_parity_iff (f : Frame) : f.extractLsb' 9 1 = parity (frameData f) ↔ frameOnes f % 2 = 1 := by
  rw [extractLsb'_one_eq_ofBool, parity_eq_ofBool, BitVec.ofBool_eq_iff_eq, frameOnes_eq_popcount]
  cases f.getLsbD 9 with
  | false => simp
  | true => simp [Nat.succ_mod_two_eq_one_iff]

/-- A frame is the concatenation of its four fields. -/
theorem frame_eq_fields (f : Frame) : f.extractLsb' 10 1 ++ f.extractLsb' 9 1 ++ frameData f ++ f.extractLsb' 0 1 = f := by
  rw [frameData, BitVec.extractLsb'_append_extractLsb'_eq_extractLsb' (rfl : 10 = 9 + 1),
    BitVec.extractLsb'_append_extractLsb'_eq_extractLsb' (rfl : 9 = 1 + 8),
    BitVec.extractLsb'_append_extractLsb'_eq_extractLsb' (rfl : 1 = 0 + 1)]
  exact BitVec.extractLsb'_eq_self

/-! ## When a frame decodes (R144) -/

/-- A frame with start bit 0, stop bit 1 and an odd number of 1 bits between them. -/
def FrameValid (f : Frame) : Prop := f.getLsbD 0 = false ∧ f.getLsbD 10 = true ∧ frameOnes f % 2 = 1

theorem decodeFrame_eq_ok_iff (f : Frame) (b : Byte) : decodeFrame f = .ok b ↔ FrameValid f ∧ frameData f = b := by
  simp only [decodeFrame, ne_eq, ite_not, ← ite_and, startBit_eq_zero_iff, stopBit_eq_one_iff, parityBit_eq_parity_iff]
  rw [FrameValid]
  split_ifs with hvalid
  · simp only [hvalid, Decoded.ok.injEq, and_self, true_and]
  · simp only [hvalid, false_and]

theorem decodeFrame_eq_parityError_iff (f : Frame) : decodeFrame f = .parityError ↔ ¬ FrameValid f := by
  have hok := decodeFrame_eq_ok_iff f
  cases h : decodeFrame f with
  | parityError => simpa [h] using hok
  | ok b => simpa [h] using ((hok b).1 h).1

theorem frameValid_encodeFrame (b : Byte) : FrameValid (encodeFrame b) :=
  ((decodeFrame_eq_ok_iff _ b).1 (decodeFrame_encodeFrame b)).1

/-! ## O4 -/

/-- A corrupted frame stays valid exactly if the corruption spares start and stop and flips an even number of the rest. -/
theorem FrameValid.xor_iff {f : Frame} (hf : FrameValid f) (m : Frame) :
    FrameValid (f ^^^ m) ↔ m.getLsbD 0 = false ∧ m.getLsbD 10 = false ∧ frameOnes m % 2 = 0 := by
  obtain ⟨hstart, hstop, hodd⟩ := hf
  have hones : frameOnes (f ^^^ m) % 2 = 1 ↔ frameOnes m % 2 = 0 := by rw [frameOnes_xor]; omega
  simp only [FrameValid, hones, BitVec.getLsbD_xor, hstart, hstop, Bool.false_xor, Bool.true_xor, Bool.not_eq_true']

/-- Settles O4: the corruption is detected exactly if the frame it leaves is no longer valid. -/
theorem corruptionDetectedExactly : Obligations.CorruptionDetectedExactly := by
  intro b m
  rw [decodeFrame_eq_parityError_iff, (frameValid_encodeFrame b).xor_iff]
  show _ ↔ _ ∨ _ ∨ frameOnes m % 2 = 1
  rw [← Nat.mod_two_ne_zero]
  simp only [not_and_or, Bool.not_eq_false, ne_eq]

/-! ## O3 -/

/-- R145, the converse: the three checks and the data field fix the whole frame. -/
theorem eq_encodeFrame_of_decodeFrame {f : Frame} {b : Byte} (h : decodeFrame f = .ok b) : f = encodeFrame b := by
  obtain ⟨⟨hstart, hstop, hodd⟩, hdata⟩ := (decodeFrame_eq_ok_iff f b).1 h
  rw [← frame_eq_fields f, (startBit_eq_zero_iff f).2 hstart, (stopBit_eq_one_iff f).2 hstop,
    (parityBit_eq_parity_iff f).2 hodd, hdata, encodeFrame]

/-- The frame values that decode are the image of `encodeFrame`. -/
theorem decodable_eq_image_encodeFrame :
    ((Finset.range 2048).filter (fun n => decodeFrame (BitVec.ofNat 11 n) ≠ .parityError)) =
      Finset.univ.image (fun b : Byte => (encodeFrame b).toNat) := by
  ext n
  simp only [Finset.mem_filter, Finset.mem_range, Finset.mem_image, Finset.mem_univ, true_and]
  constructor
  · rintro ⟨hn, hne⟩
    cases h : decodeFrame (BitVec.ofNat 11 n) with
    | parityError => exact absurd h hne
    | ok b => exact ⟨b, by rw [← eq_encodeFrame_of_decodeFrame h, BitVec.toNat_ofNat, Nat.mod_eq_of_lt hn]⟩
  · rintro ⟨b, rfl⟩
    exact ⟨(encodeFrame b).isLt, by simp [decodeFrame_encodeFrame]⟩

theorem encodeFrame_toNat_injective : Function.Injective (fun b : Byte => (encodeFrame b).toNat) := fun a b h => by
  have hdec := congrArg decodeFrame (BitVec.eq_of_toNat_eq h)
  simpa only [decodeFrame_encodeFrame, Decoded.ok.injEq] using hdec

/-- Settles O3: the frames that decode are the image of an injective function of the byte. -/
theorem framesRoundTrip : Obligations.FramesRoundTrip := by
  refine ⟨decodeFrame_encodeFrame, fun _ _ => eq_encodeFrame_of_decodeFrame, ?_⟩
  show ((Finset.range 2048).filter (fun n => decodeFrame (BitVec.ofNat 11 n) ≠ .parityError)).card = 256
  rw [decodable_eq_image_encodeFrame, Finset.card_image_of_injective _ encodeFrame_toNat_injective, Finset.card_univ,
    Fintype.card_congr BitVec.equivFin.toEquiv, Fintype.card_fin]
  rfl

end Sys2Proof.Machine
end

section
/-! The keyboard's commands (42_keyboard_commands.md): an enqueue on the keyboard's own Link as a whole next state, an
acknowledgement after a write of the registers, and with them O14 and O17. -/

namespace Sys2Proof.Machine

/-! ## Replies of the keyboard (R163, R191) -/

/-- An enqueue does not read the keyboard's registers. -/
@[simp] theorem queueAfter_setKb (s : State) (k : KbState) (d : Dev) (p : Packet) :
    queueAfter (s.setKb k) d p = queueAfter s d p := queueAfter_congr (link_setKb s k d) (setKb_cfg s k)

/-- `send_eq` for the keyboard's Link, as a record update. -/
theorem send_kb_eq (p : Packet) (s : State) :
    send .kb p s = { s with kbLink := { s.kbLink with q := queueAfter s .kb p } } := send_eq .kb p s

/-- A write of the registers and then an ACK: the queue is that of the state before the write. -/
theorem sendAck_setKb (s : State) (k : KbState) :
    sendAck .kb (s.setKb k) = { s with kb := k, kbLink := { s.kbLink with q := queueAfter s .kb [0xFA] } } := by
  rw [sendAck_eq, queueAfter_setKb]
  rfl

/-! ## O14 -/

/-- Settles O14: two bare replies, and one register write with its ACK. -/
theorem kbEchoReadIdAndEnable : Obligations.KbEchoReadIdAndEnable := fun s =>
  ⟨congrArg Host.Outcome.next (send_kb_eq [0xEE] s), congrArg Host.Outcome.next (send_kb_eq [0xAB, 0x83] s),
    congrArg Host.Outcome.next (sendAck_setKb s { s.kb with enabled := true })⟩

/-! ## O17 -/

/-- The three commands (R200 to R202) differ only in what is awaited. -/
theorem sendAck_kbSetPending (s : State) (p : KbPending) :
    sendAck .kb (kbSetPending p s) =
      { s with kb := { s.kb with pending := p }, kbLink := { s.kbLink with q := queueAfter s .kb [0xFA] } } :=
  sendAck_setKb s { s.kb with pending := p }

/-- Settles O17: each command is `sendAck_kbSetPending` at what it awaits. -/
theorem kbParameterCommandsAwaitTheirByte : Obligations.KbParameterCommandsAwaitTheirByte := fun s =>
  ⟨congrArg Host.Outcome.next (sendAck_kbSetPending s .led),
    congrArg Host.Outcome.next (sendAck_kbSetPending s .typematic),
    congrArg Host.Outcome.next (sendAck_kbSetPending s .scanSet)⟩

end Sys2Proof.Machine
end

section
/-! The keyboard differencer (46_hid_keyboard_differencer.md R334, R335, R339): which reports make no key event, what a
report leaves for the next one, and O30. -/

namespace Sys2Proof.Machine

/-! ## Reports without key events (R335) -/

theorem modifierEvents_self (mods : Byte) : modifierEvents mods mods = [] := by
  simp [modifierEvents]

theorem releaseEvents_eq_nil_iff {prevKeys keys : List Byte} {mods : Byte} :
    releaseEvents prevKeys keys mods = [] ↔ prevKeys ⊆ keys := by
  simp [releaseEvents, List.subset_def]

theorem pressEvents_eq_nil_iff {prevKeys keys : List Byte} {mods : Byte} :
    pressEvents prevKeys keys mods = [] ↔ keys ⊆ prevKeys := by
  simp [pressEvents, List.subset_def]

/-- Only the set of the keys matters here, not their order or how often one stands in a report. -/
theorem diffEvents_eq_nil_of_mem_iff {prevMods : Byte} {prevKeys : List Byte} {n : NormReport}
    (hmods : n.mods = prevMods) (hkeys : ∀ u, u ∈ n.keys ↔ u ∈ prevKeys) : diffEvents prevMods prevKeys n = [] := by
  have hrel : releaseEvents prevKeys n.keys n.mods = [] := releaseEvents_eq_nil_iff.mpr fun u => (hkeys u).mpr
  have hpress : pressEvents prevKeys n.keys n.mods = [] := pressEvents_eq_nil_iff.mpr fun u => (hkeys u).mp
  rw [diffEvents, hrel, hpress, hmods, modifierEvents_self]
  rfl

/-! ## What a report leaves (R334) -/

@[simp] theorem kbKeys_nil (s : State) : kbKeys [] s = s := rfl

@[simp] theorem kbKeys_cfg (es : List KeyEvent) (s : State) : (kbKeys es s).cfg = s.cfg := by
  rw [(kbKeys_frame es s).rest]

/-- The next report is normalised in the same layout, and compared with this one. -/
theorem execEvKbreport_next (r : KbReport) (s : State) :
    ∃ t, execEvKbreport r s = .next t ∧ t.cfg = s.cfg ∧
      t.kb.prevMods = (normReport s.cfg.nkroLayout r).mods ∧ t.kb.prevKeys = (normReport s.cfg.nkroLayout r).keys :=
  ⟨_, rfl, kbKeys_cfg _ s, rfl, rfl⟩

/-- A report without key events only replaces the previous report. -/
theorem execEvKbreport_of_no_events {r : KbReport} {s : State}
    (h : diffEvents s.kb.prevMods s.kb.prevKeys (normReport s.cfg.nkroLayout r) = []) :
    execEvKbreport r s = .next (s.setKb { s.kb with
      prevMods := (normReport s.cfg.nkroLayout r).mods, prevKeys := (normReport s.cfg.nkroLayout r).keys }) := by
  simp only [execEvKbreport, h, kbKeys_nil]

/-! ## O30 (R339) -/

/-- Settles O30: the second report has no key events in the state that the first one left, and the modifiers it records
are those already there. -/
theorem sameKeysAgainMakeNoEvent : Obligations.SameKeysAgainMakeNoEvent := by
  intro s r
  obtain ⟨t, hexec, hcfg, hprevMods, hprevKeys⟩ := execEvKbreport_next r s
  refine ⟨t, hexec, ?_⟩
  rw [← hprevMods, ← hprevKeys, ← hcfg]
  intro r' hmods hkeys
  have hnone : diffEvents t.kb.prevMods t.kb.prevKeys (normReport t.cfg.nkroLayout r') = [] :=
    diffEvents_eq_nil_of_mem_iff hmods hkeys
  calc exec (.evKbreport r') t
      = .next (t.setKb { t.kb with
          prevMods := (normReport t.cfg.nkroLayout r').mods, prevKeys := (normReport t.cfg.nkroLayout r').keys }) :=
        execEvKbreport_of_no_events hnone
    _ = .next { t with kb := { t.kb with prevKeys := (normReport t.cfg.nkroLayout r').keys } } := by rw [hmods]; rfl

end Sys2Proof.Machine
end

section
/-! EV.MOUNT (70_reset_and_hazards.md R420): its whole next state from an unmounted block, and O54. -/

namespace Sys2Proof.Machine

/-- What `Mount` keeps is the configuration and the schedule; the parts it writes have their values in R55. -/
theorem execEvMount_of_unmounted {s : State} (h : s.mounted = false) :
    execEvMount s = .next {
      cfg := s.cfg, mounted := true, kb := KbState.afterMount s.cfg, kbLink := Link.empty, ms := MsState.afterMount
      msLink := Link.empty, leds := [], schedule := s.schedule, result := none } := by
  simp only [execEvMount, h, Bool.false_eq_true, if_false]

/-- Settles O54: the next state is made of the parts that `Mount` writes, over the block's own configuration, and each
part has its values. -/
theorem mountWritesEveryField : Obligations.MountWritesEveryField := fun s hmounted =>
  ⟨_, execEvMount_of_unmounted hmounted, KbState.afterMount_eq s.cfg, Link.empty_eq, MsState.afterMount_eq,
    Link.empty_eq, rfl, rfl⟩

end Sys2Proof.Machine
end

section
/-! KB.RESET (42_keyboard_commands.md R192): a reply on a queue just flushed, and O12. -/

namespace Sys2Proof.Machine

/-- A reply on an empty queue always fits (R192: flush first). -/
theorem next_send_kb_flushed {t : State} {p : Packet} (hp : p ≠ []) (hq : t.kbLink.q = []) :
    (.next (send .kb p t) : Out) = .next { t with kbLink := { t.kbLink with q := [p] } } := by
  rw [send_kb_eq, queueAfter_empty (d := .kb) hp hq]

-- In the one text of the check every proof that waits for the kernel's turn keeps a thread of its own, and those above
-- leave room for no more. Elaborated in place, this proof lets the rest of the text begin after them.
set_option Elab.async false in
/-- Settles O12: after the writes of the registers the reply is the only packet of the flushed queue. -/
theorem kbResetRestoresEveryDefault : Obligations.KbResetRestoresEveryDefault := fun _ =>
  next_send_kb_flushed (List.cons_ne_nil _ _) rfl

end Sys2Proof.Machine
end

section
/-! The Links (41_link.md R163, R167, 60_exceptions.md R381): a reply on one device's Link as a whole next state, and O5, O6,
O7 and O8. -/

namespace Sys2Proof.Machine

/-! ## Replies -/

@[simp] theorem queueAfter_setMs (s : State) (m : MsState) (d : Dev) (p : Packet) :
    queueAfter (s.setMs m) d p = queueAfter s d p := queueAfter_congr (link_setMs s m d) (setMs_cfg s m)

/-- `send_eq` for the mouse's Link, as a record update. -/
theorem send_ms_eq (p : Packet) (s : State) :
    send .ms p s = { s with msLink := { s.msLink with q := queueAfter s .ms p } } := send_eq .ms p s

theorem send_nil (d : Dev) (s : State) : send d [] s = s := by
  rw [send_eq, queueAfter_nil]
  exact setLink_self s d

/-- A reply of the keyboard after writes that leave its Link and the configuration. -/
theorem send_kb_after {s t : State} (p : Packet) (hlink : t.kbLink = s.kbLink) (hcfg : t.cfg = s.cfg) :
    send .kb p t = { t with kbLink := { s.kbLink with q := queueAfter s .kb p } } := by
  rw [send_kb_eq, hlink, queueAfter_congr (d := .kb) hlink hcfg]

/-- A reply of the mouse after writes that leave its Link and the configuration. -/
theorem send_ms_after {s t : State} (p : Packet) (hlink : t.msLink = s.msLink) (hcfg : t.cfg = s.cfg) :
    send .ms p t = { t with msLink := { s.msLink with q := queueAfter s .ms p } } := by
  rw [send_ms_eq, hlink, queueAfter_congr (d := .ms) hlink hcfg]

/-! ## O5 -/

/-- Settles O5: the three cases are the branches of `enqueue`. -/
theorem enqueueIsAllOrNothing : Obligations.EnqueueIsAllOrNothing := fun s d p =>
  ⟨fun hp => by rw [enqueue, if_pos hp], fun hp hfull => by rw [enqueue, if_neg hp, if_pos hfull],
    fun hp hroom => by rw [enqueue, if_neg hp, if_neg (Nat.not_le_of_lt hroom)]⟩

/-! ## O6 and O7 -/

theorem execEvTx_of_cons {s : State} {d : Dev} {p : Packet} {rest : List Packet} {b : Byte}
    (hq : (s.link d).q = p :: rest) (hb : p[(s.link d).sent]? = some b) :
    execEvTx d s = .next (s.setLink d (linkAfterTx (s.link d) p rest b)) := by
  simp only [execEvTx, hq, hb]

/-- Settles O6: `linkAfterTx` is the Link that the statement writes out. -/
theorem txTransmitsTheNextByte : Obligations.TxTransmitsTheNextByte := fun _ _ _ _ _ hq hb => execEvTx_of_cons hq hb

theorem execEvTx_of_nil {s : State} {d : Dev} (hq : (s.link d).q = []) :
    execEvTx d s = .refused (.txNotEnabled d) := by simp only [execEvTx, hq]

theorem execEvKbtick_of_off {s : State} (h : s.kb.timer = .off) : execEvKbtick s = .refused .kbTickNotEnabled :=
  if_pos h

theorem execEvMstick_of_idle {s : State} (h : s.ms.mode = .idle) : execEvMstick s = .refused .msTickNotEnabled := by
  rw [execEvMstick, h]
  exact if_pos MsMode.noConfusion

theorem execEvMount_of_mounted {s : State} (h : s.mounted = true) : execEvMount s = .refused .mountedAlready := if_pos h

/-- Settles O7: the four events, each under the condition that disables it. -/
theorem disabledEventsAreRefused : Obligations.DisabledEventsAreRefused :=
  ⟨fun _ _ => execEvTx_of_nil, fun _ => execEvKbtick_of_off, fun _ => execEvMstick_of_idle,
    fun _ => execEvMount_of_mounted⟩

/-! ## O8 and O9 -/

theorem execEvRxframe_of_parityError {f : Frame} (h : decodeFrame f = .parityError) (d : Dev) (s : State) :
    execEvRxframe d f s = .next (raiseParityError d s) := by simp only [execEvRxframe, h]

/-- Settles O8: both events raise the one exception, whose only effect is its reply. -/
theorem parityErrorOnlyQueuesResend : Obligations.ParityErrorOnlyQueuesResend := fun s d =>
  ⟨congrArg Host.Outcome.next (raiseParityError_eq d s), fun _ hf =>
    (execEvRxframe_of_parityError hf d s).trans (congrArg Host.Outcome.next (raiseParityError_eq d s))⟩

/-- A valid frame for the keyboard runs what its byte decodes to. -/
theorem exec_evRxframe_kb {f : Frame} {b : Byte} (h : decodeFrame f = .ok b) (s : State) :
    exec (.evRxframe .kb f) s = exec (decodeKbByte s.kb.pending b) s := by
  rw [← kbByte_eq]
  show execEvRxframe .kb f s = kbByte b s
  simp only [execEvRxframe, h]

/-- A valid frame for the mouse runs what its byte decodes to. -/
theorem exec_evRxframe_ms {f : Frame} {b : Byte} (h : decodeFrame f = .ok b) (s : State) :
    exec (.evRxframe .ms f) s = exec (decodeMsByte s.ms.pending b) s := by
  rw [← msByte_eq]
  show execEvRxframe .ms f s = msByte b s
  simp only [execEvRxframe, h]

/-- Settles O9: for each device the decoder reads the instruction that the interpreter runs. -/
theorem receivedByteRunsItsInstruction : Obligations.ReceivedByteRunsItsInstruction := by
  intro s d f b i hf hdecode
  cases d with
  | kb => cases hdecode; exact exec_evRxframe_kb hf s
  | ms => cases hdecode; exact exec_evRxframe_ms hf s

/-! ## O10 -/

/-- Settles O10: a frame is an error, which queues a reply, or a byte, whose frame writes one device without its wire. -/
theorem everyFrameIsHandled : Obligations.EveryFrameIsHandled := by
  intro s d f
  obtain ⟨t, hexec, ⟨-, rfl⟩ | ⟨b, -, -, -, hframe⟩ | ⟨b, -, -, -, hframe⟩⟩ := exec_evRxframe s d f
  · refine ⟨_, hexec, ?_⟩
    cases d <;> exact ⟨rfl, rfl, rfl, rfl, rfl, rfl⟩
  · have hwire : t.kbLink.wire = s.kbLink.wire := hframe.link.wire
    rw [hframe.rest] at hexec
    exact ⟨_, hexec, rfl, rfl, rfl, rfl, hwire, rfl⟩
  · have hwire : t.msLink.wire = s.msLink.wire := hframe.link.wire
    rw [hframe.rest] at hexec
    exact ⟨_, hexec, rfl, rfl, rfl, rfl, rfl, hwire⟩

end Sys2Proof.Machine
end

section
/-! The keyboard's commands and parameters (42_keyboard_commands.md sections 2 to 5), one equation per instruction, and with
them O13, O15, O16 and O18 to O24. -/

namespace Sys2Proof.Machine

/-- A reply of the keyboard after writes of its own registers, as an outcome. -/
theorem next_send_kb {s t : State} (p : Packet) (hlink : t.kbLink = s.kbLink) (hcfg : t.cfg = s.cfg) :
    (.next (send .kb p t) : Out) = .next { t with kbLink := { s.kbLink with q := queueAfter s .kb p } } :=
  congrArg Host.Outcome.next (send_kb_after p hlink hcfg)

/-! ## Commands without a parameter -/

/-- With nothing transmitted yet the packet to resend is empty, and enqueueing it changes nothing. -/
theorem execKbResend_eq (s : State) : execKbResend s = .next (send .kb s.kbLink.lastByteSent.toList s) := by
  unfold execKbResend
  cases s.kbLink.lastByteSent with
  | some b => rfl
  | none => exact congrArg Host.Outcome.next (send_nil .kb s).symm

/-- Settles O13: the packet of `execKbResend_eq` is `[b]` or empty. -/
theorem kbResendRetransmitsTheLastByte : Obligations.KbResendRetransmitsTheLastByte := by
  intro s
  show (∀ b, _ → execKbResend s = _) ∧ (_ → execKbResend s = _)
  rw [execKbResend_eq]
  constructor
  · intro b hb
    rw [hb, Option.toList_some, send_kb_eq]
  · intro hnone
    rw [hnone, Option.toList_none, send_nil]

/-- Settles O15: after the registers the reply is that of the state before. -/
theorem kbDisableRestoresTypematicAndLeds : Obligations.KbDisableRestoresTypematicAndLeds := fun _ =>
  next_send_kb _ rfl rfl

/-- Settles O16: as for O15, with the set and `enabled` restored too. -/
theorem kbSetDefaultsKeepsKeyModesAndQueue : Obligations.KbSetDefaultsKeepsKeyModesAndQueue := fun _ =>
  next_send_kb _ rfl rfl

/-- The answer to an unknown command is one byte (R218). -/
theorem execKbUnknown_eq (b : Byte) (s : State) : execKbUnknown b s =
    .next (send .kb [match s.cfg.unknownPolicy with | .ack => 0xFA | .resend => 0xFE] s) := by
  unfold execKbUnknown
  cases s.cfg.unknownPolicy <;> rfl

/-- Settles O24: one byte by the policy. -/
theorem kbUnknownAnswersByPolicy : Obligations.KbUnknownAnswersByPolicy := fun s b =>
  (execKbUnknown_eq b s).trans (next_send_kb _ rfl rfl)

/-! ## Parameters -/

/-- Settles O18: the mask is stored and forwarded, then the reply. -/
theorem kbLedParameterIsStoredWhole : Obligations.KbLedParameterIsStoredWhole := fun _ _ => next_send_kb _ rfl rfl

theorem extractLsb'_eq_ofNat (b : Byte) (i n : Nat) : b.extractLsb' i n = BitVec.ofNat n (b.toNat / 2 ^ i) := by
  rw [BitVec.extractLsb', Nat.shiftRight_eq_div_pow]

theorem delayOf_eq : ∀ delay : BitVec 2,
    delayOf delay = if delay = 0 then 250 else if delay = 1 then 500 else if delay = 2 then 750 else 1000 := by decide

/-- Settles O19: the fields are quotients of the byte, and the delay is an entry of the four-entry table. -/
theorem kbTypematicParameterSelectsRateAndDelay : Obligations.KbTypematicParameterSelectsRateAndDelay := by
  constructor
  · intro b
    show Instr.kbPTypematic (b.extractLsb' 7 1) (b.extractLsb' 5 2) (b.extractLsb' 0 5) = _
    rw [extractLsb'_eq_ofNat, extractLsb'_eq_ofNat, extractLsb'_eq_ofNat, Nat.pow_zero, Nat.div_one]
    rfl
  · intro s ignored delay rate
    rw [← delayOf_eq]
    exact next_send_kb _ rfl rfl

/-- The reply of the query (R205) is the number of the set. -/
theorem execKbPScanset_zero (s : State) : execKbPScanset 0x00 s = .next { s with
    kb := { s.kb with pending := .idle }
    kbLink := { s.kbLink with q := queueAfter s .kb [scanSetNumber s.kb.scanCodeSet] } } :=
  next_send_kb _ rfl rfl

theorem execKbPScanset_one (s : State) : execKbPScanset 0x01 s = .next { s with
    kb := { s.kb with pending := .idle, scanCodeSet := .set1 }
    kbLink := { s.kbLink with q := queueAfter s .kb [0xFA] } } :=
  next_send_kb _ rfl rfl

theorem execKbPScanset_three (s : State) : execKbPScanset 0x03 s = .next { s with
    kb := { s.kb with pending := .idle, scanCodeSet := .set3, keyMode := Vector.replicate 256 ⟨true, true⟩ }
    kbLink := { s.kbLink with q := queueAfter s .kb [0xFA] } } :=
  next_send_kb _ rfl rfl

/-- Every byte but 0, 1 and 3 selects set 2. -/
theorem execKbPScanset_other {n : Byte} (h0 : n ≠ 0x00) (h1 : n ≠ 0x01) (h3 : n ≠ 0x03) (s : State) :
    execKbPScanset n s = .next { s with
      kb := { s.kb with pending := .idle, scanCodeSet := .set2 }
      kbLink := { s.kbLink with q := queueAfter s .kb [0xFA] } } := by
  unfold execKbPScanset
  dsimp only
  rw [if_neg h0, if_neg h1, if_neg h3, ite_self]
  exact next_send_kb _ rfl rfl

/-- Settles O20: the four cases of `execKbPScanset`. -/
theorem kbScanSetParameterQueriesOrSelects : Obligations.KbScanSetParameterQueriesOrSelects := by
  intro s
  refine ⟨execKbPScanset_zero s, execKbPScanset_one s, execKbPScanset_three s, ?_⟩
  rintro n (rfl | hn)
  · exact execKbPScanset_other (n := 0x02) (by decide) (by decide) (by decide) s
  · refine execKbPScanset_other ?_ ?_ ?_ s <;> rintro rfl <;> exact absurd hn (by decide)

/-! ## The set-3 commands -/

/-- A command that writes the registers in set 3 and is only acknowledged elsewhere (R206). -/
theorem set3Only_setKb (f : KbState → KbState) (s : State) :
    set3Only (fun s => sendAck .kb (s.setKb (f s.kb))) s = { s with
      kb := if s.kb.scanCodeSet = .set3 then f s.kb else s.kb
      kbLink := { s.kbLink with q := queueAfter s .kb [0xFA] } } := by
  unfold set3Only
  by_cases h : s.kb.scanCodeSet = .set3
  · rw [if_neg (not_not_intro h), if_pos h]
    exact sendAck_setKb s (f s.kb)
  · rw [if_pos h, if_neg h]
    exact sendAck_setKb s s.kb

theorem next_set3Only (f : KbState → KbState) (s : State) :
    (.next (set3Only (fun s => sendAck .kb (s.setKb (f s.kb))) s) : Out) = .next { s with
      kb := if s.kb.scanCodeSet = .set3 then f s.kb else s.kb
      kbLink := { s.kbLink with q := queueAfter s .kb [0xFA] } } :=
  congrArg Host.Outcome.next (set3Only_setKb f s)

/-- Settles O21: the four commands are `next_set3Only` at a write of all key modes. -/
theorem allKeyModeCommands : Obligations.AllKeyModeCommands := by
  intro s i m hmem
  simp only [List.mem_cons, Prod.mk.injEq, List.not_mem_nil, or_false] at hmem
  rcases hmem with ⟨rfl, rfl⟩ | ⟨rfl, rfl⟩ | ⟨rfl, rfl⟩ | ⟨rfl, rfl⟩ <;>
    exact next_set3Only (fun k => { k with keyMode := Vector.replicate 256 _ }) s

/-- Settles O22: the three commands are `next_set3Only` at a write of what is awaited. -/
theorem oneKeyModeCommands : Obligations.OneKeyModeCommands := by
  intro s i m hmem
  simp only [List.mem_cons, Prod.mk.injEq, List.not_mem_nil, or_false] at hmem
  rcases hmem with ⟨rfl, rfl⟩ | ⟨rfl, rfl⟩ | ⟨rfl, rfl⟩ <;>
    exact next_set3Only (fun k => { k with pending := .keyMode _ }) s

/-- Settles O23: the vector with one entry set. -/
theorem keyModeParameterWritesOneEntry : Obligations.KeyModeParameterWritesOneEntry := by
  intro s m code
  refine ⟨s.kb.keyMode.set code.toNat (keyModeOf m) code.isLt, next_send_kb _ rfl rfl, fun c => ?_⟩
  rw [Vector.getElem_set]
  by_cases h : c = code
  · rw [if_pos (congrArg BitVec.toNat h).symm, if_pos h]
    cases m <;> rfl
  · rw [if_neg (fun heq => h (BitVec.eq_of_toNat_eq heq.symm)), if_neg h]

end Sys2Proof.Machine
end

section
/-! The mouse's commands and its rate parameter (44_mouse_commands.md), one equation per instruction, and O38 to O41. -/

namespace Sys2Proof.Machine

/-- A reply of the mouse after writes of its own registers, as an outcome. -/
theorem next_send_ms {s t : State} (p : Packet) (hlink : t.msLink = s.msLink) (hcfg : t.cfg = s.cfg) :
    (.next (send .ms p t) : Out) = .next { t with msLink := { s.msLink with q := queueAfter s .ms p } } :=
  congrArg Host.Outcome.next (send_ms_after p hlink hcfg)

/-- A reply on a queue just flushed always fits. -/
theorem next_send_ms_flushed {t : State} {p : Packet} (hp : p ≠ []) (hq : t.msLink.q = []) :
    (.next (send .ms p t) : Out) = .next { t with msLink := { t.msLink with q := [p] } } := by
  rw [send_ms_eq, queueAfter_empty (d := .ms) hp hq]

/-- Settles O38: both restore the registers that `Mount` writes, and the reset's reply is on the empty queue. -/
theorem msResetAndSetDefaults : Obligations.MsResetAndSetDefaults := fun _ =>
  ⟨next_send_ms_flushed (List.cons_ne_nil _ _) rfl, next_send_ms _ rfl rfl⟩

/-- Settles O39: one register, then the ACK. -/
theorem msModeAndRateCommandsWriteOneRegister : Obligations.MsModeAndRateCommandsWriteOneRegister := fun _ =>
  ⟨next_send_ms _ rfl rfl, next_send_ms _ rfl rfl, next_send_ms _ rfl rfl, next_send_ms _ rfl rfl⟩

theorem statusByte_eq (mode : MsMode) : statusByte mode = if mode = .streaming then 0x20 else 0x00 := by
  cases mode <;> rfl

/-- Settles O40: three bare replies. -/
theorem msQueriesAndUnknownOnlyReply : Obligations.MsQueriesAndUnknownOnlyReply := by
  intro s b
  rw [← statusByte_eq]
  exact ⟨next_send_ms _ rfl rfl, next_send_ms _ rfl rfl, next_send_ms _ rfl rfl⟩

/-! ## The rate window (R281) -/

/-- The oldest byte drops out and the new one comes in below. -/
theorem pushWindow_toNat (w : BitVec 24) (b : Byte) :
    (pushWindow w b).toNat = (w.toNat * 256 + b.toNat) % 16777216 := by
  have hb : b.toNat < 2 ^ 8 := b.isLt
  have hhigh : w.toNat * 2 ^ 8 % 2 ^ 24 = (w.toNat % 2 ^ 16) <<< 8 := by
    rw [Nat.shiftLeft_eq]
    omega
  rw [pushWindow, BitVec.toNat_or, BitVec.toNat_shiftLeft, BitVec.toNat_setWidth, Nat.shiftLeft_eq,
    Nat.mod_eq_of_lt (a := b.toNat) (by omega), hhigh, ← Nat.shiftLeft_add_eq_or_of_lt hb, Nat.shiftLeft_eq]
  omega

theorem promote_eq (t : DeviceType) (w : BitVec 24) : promote t w =
    if t = .standard ∧ w = 0xC86450 then .wheel3 else if t = .wheel3 ∧ w = 0xC8C850 then .wheel5 else t := by
  cases t with
  | standard =>
    by_cases h : w = magicWheel3
    · rw [promote, if_pos h, if_pos ⟨rfl, h⟩]
    · rw [promote, if_neg h, if_neg (fun k => h k.2), if_neg (fun k => nomatch k.1)]
  | wheel3 =>
    rw [if_neg (fun k => nomatch k.1)]
    by_cases h : w = magicWheel5
    · rw [promote, if_pos h, if_pos ⟨rfl, h⟩]
    · rw [promote, if_neg h, if_neg (fun k => h k.2)]
  | wheel5 => rw [promote, if_neg (fun k => nomatch k.1), if_neg (fun k => nomatch k.1)]

/-- Settles O41: the window is `pushWindow`, the type `promote` of it. -/
theorem msRateParameterPushesTheWindow : Obligations.MsRateParameterPushesTheWindow := by
  intro s b
  refine ⟨pushWindow s.ms.window b, pushWindow_toNat _ _, ?_⟩
  rw [← promote_eq]
  exact next_send_ms _ rfl rfl

end Sys2Proof.Machine
end

section
/-! What an instruction that completes did: `Ran`, one constructor per kind of instruction, and `exec_ran`, the inversion of
`exec` through which the statements about all instructions go. -/

namespace Sys2Proof.Machine

/-- What an instruction that completes from `s` in `t` did. -/
inductive Ran : Instr → State → State → Prop
  | returned {i s} (r : OpResult) (hkb : actsOn i .kb = false) (hms : actsOn i .ms = false) : Ran i s (returning r s)
  | kbByte {i s t} (hi : isKbByte i = true) (hrun : exec i s = .next t) (hframe : KbFrame (i == .kbReset) s t) : Ran i s t
  | msByte {i s t} (hi : isMsByte i = true) (hrun : exec i s = .next t) (hframe : MsFrame (i == .msReset) s t) : Ran i s t
  | parityError {s} (d : Dev) : Ran (.evParityerror d) s (send d [0xFE] s)
  | badFrame {s f} (d : Dev) (hf : decodeFrame f = .parityError) : Ran (.evRxframe d f) s (send d [0xFE] s)
  | kbReceived {s t f b} (hf : decodeFrame f = .ok b) (hrun : exec (decodeKbByte s.kb.pending b) s = .next t)
      (hframe : KbFrame (decodeKbByte s.kb.pending b == .kbReset) s t) : Ran (.evRxframe .kb f) s t
  | msReceived {s t f b} (hf : decodeFrame f = .ok b) (hrun : exec (decodeMsByte s.ms.pending b) s = .next t)
      (hframe : MsFrame (decodeMsByte s.ms.pending b == .msReset) s t) : Ran (.evRxframe .ms f) s t
  | tx {s d p rest b} (hq : (s.link d).q = p :: rest) (hb : p[(s.link d).sent]? = some b) :
      Ran (.evTx d) s (s.setLink d (linkAfterTx (s.link d) p rest b))
  | kbReport {s t} (r : KbReport)
      (ht : t = kbKeys (diffEvents s.kb.prevMods s.kb.prevKeys (normReport s.cfg.nkroLayout r)) s) :
      Ran (.evKbreport r) s (t.setKb { t.kb with
        prevMods := (normReport s.cfg.nkroLayout r).mods, prevKeys := (normReport s.cfg.nkroLayout r).keys })
  | msReport {s} (r : MsReport) (acc : MouseAcc) (hacc : acc.Wf) : Ran (.evMsreport r) s (s.setMs { s.ms with acc := acc })
  | kbTick {s} (p : Packet) (hon : s.kb.timer ≠ .off) :
      Ran .evKbtick s ((send .kb p s).setKb { s.kb with timer := .repeating })
  | msTick {s} (hmode : s.ms.mode = .streaming) : Ran .evMstick s (msTick s)
  | mount {s} : Ran .evMount s {
      cfg := s.cfg, mounted := true, kb := KbState.afterMount s.cfg, kbLink := Link.empty, ms := MsState.afterMount
      msLink := Link.empty, leds := [], schedule := s.schedule, result := none }

theorem ran_of_kbByte {i : Instr} {s t : State} (hi : isKbByte i = true) (h : exec i s = .next t) : Ran i s t := by
  obtain ⟨u, hu, hframe⟩ := exec_kbByte hi s
  cases h.symm.trans hu
  exact .kbByte hi h hframe

theorem ran_of_msByte {i : Instr} {s t : State} (hi : isMsByte i = true) (h : exec i s = .next t) : Ran i s t := by
  obtain ⟨u, hu, hframe⟩ := exec_msByte hi s
  cases h.symm.trans hu
  exact .msByte hi h hframe

theorem ran_of_evRxframe {d : Dev} {f : Frame} {s t : State} (h : exec (.evRxframe d f) s = .next t) :
    Ran (.evRxframe d f) s t := by
  obtain ⟨u, hu, hcases⟩ := exec_evRxframe s d f
  cases h.symm.trans hu
  rcases hcases with ⟨hf, rfl⟩ | ⟨b, hf, rfl, hrun, hframe⟩ | ⟨b, hf, rfl, hrun, hframe⟩
  · rw [← send_eq]
    exact .badFrame d hf
  · exact .kbReceived hf hrun hframe
  · exact .msReceived hf hrun hframe

theorem sat16_range (v : Int) : -32768 ≤ sat16 v ∧ sat16 v ≤ 32767 := clamp_range (by decide)

/-- A report leaves saturated accumulators (R365). -/
theorem ran_of_evMsreport {r : MsReport} {s t : State} (h : exec (.evMsreport r) s = .next t) :
    Ran (.evMsreport r) s t := by
  cases r <;> cases h <;> exact .msReport _ _ ⟨sat16_range _, sat16_range _, sat16_range _⟩

theorem ran_of_evKbtick {s t : State} (h : exec .evKbtick s = .next t) : Ran .evKbtick s t := by
  obtain ⟨hon, p, rfl⟩ := exec_evKbtick h
  have hran := Ran.kbTick p hon
  rw [send_eq] at hran
  exact hran

/-- Mount ran: nothing of the state before is left but the configuration and the schedule. -/
theorem exec_evMount {s t : State} (h : exec .evMount s = .next t) :
    t = { cfg := s.cfg, mounted := true, kb := KbState.afterMount s.cfg, kbLink := Link.empty, ms := MsState.afterMount,
          msLink := Link.empty, leds := [], schedule := s.schedule, result := none } := by
  have h : execEvMount s = .next t := h
  cases hm : s.mounted with
  | false => exact Host.Outcome.next.inj (h.symm.trans (execEvMount_of_unmounted hm))
  | true => rw [execEvMount, hm] at h; cases h

theorem ran_of_evMount {s t : State} (h : exec .evMount s = .next t) : Ran .evMount s t := by
  cases exec_evMount h
  exact .mount

/-- Every completed instruction is one of the cases of `Ran`. -/
theorem exec_ran {i : Instr} {s t : State} (h : exec i s = .next t) : Ran i s t := by
  cases i with
  | frameEncode | frameDecode | mspkt3 | mspkt4Wheel3 | mspkt4Wheel5 => cases h; exact .returned _ rfl rfl
  | evParityerror d => cases h; exact .parityError d
  | evRxframe d f => exact ran_of_evRxframe h
  | evTx d =>
    obtain ⟨p, rest, b, hq, hb, rfl⟩ := exec_evTx h
    exact .tx hq hb
  | evKbreport r => cases h; exact .kbReport r rfl
  | evMsreport r => exact ran_of_evMsreport h
  | evKbtick => exact ran_of_evKbtick h
  | evMstick =>
    obtain ⟨hmode, rfl⟩ := exec_evMstick h
    exact .msTick hmode
  | evMount => exact ran_of_evMount h
  | msReset | msSetdefaults | msDisable | msEnable | msSetrate | msGetid | msSetstream | msStatus | msUnknown
  | msPRate => exact ran_of_msByte rfl h
  | _ => exact ran_of_kbByte rfl h

end Sys2Proof.Machine
end

section
/-! The invariant of 10_state.md R50: every shared operation keeps it, every instruction keeps it, and O56 and O57. -/

namespace Sys2Proof.Machine

/-! ## The accumulators (R50(f)) -/

theorem MouseAcc.Wf.zero : MouseAcc.zero.Wf := ⟨by decide, by decide, by decide⟩

/-- Draining by a clamp between bounds around 0 moves a value towards 0. -/
theorem sub_clamp_range {v lo hi : Int} (hlo : lo ≤ 0) (hhi : 0 ≤ hi) (h : -32768 ≤ v ∧ v ≤ 32767) :
    -32768 ≤ v - clamp v lo hi ∧ v - clamp v lo hi ≤ 32767 := by
  unfold clamp
  split_ifs <;> omega

/-- Everything a tick can do: accumulators, `stationary` and the mouse's queue. -/
theorem msTick_frame (s : State) : ∃ acc stationary p, (s.ms.acc.Wf → acc.Wf) ∧
    msTick s = { s with
      ms := { s.ms with acc := acc, stationary := stationary }
      msLink := { s.msLink with q := queueAfter s .ms p } } := by
  have hx := fun v => sub_clamp_range (v := v) s.cfg.xyMin.property.2 s.cfg.xyMax.property.1
  have hz := fun v => sub_clamp_range (v := v) s.cfg.zMin.property.2 s.cfg.zMax.property.1
  have hnil : queueAfter s .ms [] = s.msLink.q := queueAfter_nil s .ms
  rw [msTick_eq]
  dsimp only
  split_ifs with hquiet hstandard hroom
  · refine ⟨_, s.ms.stationary, [], ?_, by rw [hnil]⟩
    exact fun h => ⟨h.dx_range, h.dy_range, hz _ h.dwheel_range⟩
  · exact ⟨s.ms.acc, s.ms.stationary, [], id, by rw [hnil]⟩
  · have hne : ∀ {x y z b t}, msPacket x y z b t ≠ [] := by
      intro x y z b t
      cases t <;> exact List.cons_ne_nil _ _
    refine ⟨_, _, _, ?_, by rw [queueAfter, if_pos ⟨hne, hroom⟩]; rfl⟩
    exact fun h => ⟨hx _ h.dx_range, hx _ h.dy_range, hz _ h.dwheel_range⟩
  · exact ⟨s.ms.acc, s.ms.stationary, [], id, by rw [hnil]⟩

/-! ## The held key and the previous report (R50(a), (b), (c), R23) -/

/-- A key that may be the held one (R50(b)). -/
def Holdable (cfg : Config) (u : Byte) : Prop :=
  isModifier u = false ∧ u ≠ pauseUsage ∧ ∃ set, makeCode cfg set u ≠ []

theorem holdable_of_repeatable {cfg : Config} {kb : KbState} {u : Byte} {set : ScanSet}
    (hmake : makeCode cfg set u ≠ []) (h : repeatable cfg kb u set = true) : Holdable cfg u := by
  simp only [repeatable, Bool.and_eq_true, Bool.not_eq_true', bne_iff_ne] at h
  exact ⟨h.1.1, h.1.2, set, hmake⟩

/-- The held key is kept with its timer on or off as it was, or dropped, or a key that may be held. -/
theorem KbState.Wf.update {cfg : Config} {k k' : KbState} (h : k.Wf cfg) (hprev : k'.prevKeys = k.prevKeys)
    (hheld : (k'.heldKey = k.heldKey ∧ (k'.timer = .off ↔ k.timer = .off) ∧
        (k'.enabled = k.enabled ∨ k'.enabled = true)) ∨
      (k'.heldKey = none ∧ k'.timer = .off) ∨
      ∃ u, k'.heldKey = some u ∧ k'.timer ≠ .off ∧ k'.enabled = true ∧ Holdable cfg u) : k'.Wf cfg := by
  refine ⟨?_, ?_, ?_, hprev ▸ h.prev_nodup, hprev ▸ h.prev_nonzero⟩
  all_goals rcases hheld with ⟨hk, ht, he⟩ | ⟨hk, ht⟩ | ⟨u, hk, ht, he, hu⟩
  · rw [ht, hk]; exact h.timer_off_iff
  · simp [hk, ht]
  · simp [hk, ht]
  · rw [hk]; exact h.held_makes
  · simp [hk]
  · intro v hv
    cases hk.symm.trans hv
    exact hu
  · intro hoff
    rw [hk]
    rcases he with he | he
    · exact h.disabled_holds_none (he ▸ hoff)
    · simp [he] at hoff
  · exact fun _ => hk
  · simp [he]

theorem KbFrame.kb_wf {f : Bool} {s t : State} (hf : KbFrame f s t) (h : s.kb.Wf s.cfg) : t.kb.Wf s.cfg := by
  refine h.update hf.prev.2 ?_
  rcases hf.held with ⟨hk, ht, he⟩ | hoff
  · exact .inl ⟨hk, by rw [ht], he⟩
  · exact .inr (.inl hoff)

theorem kbKey_kb_wf {s : State} (u : Byte) (pressed : Bool) (h : s.kb.Wf s.cfg) : (kbKey u pressed s).kb.Wf s.cfg := by
  have hframe := (kbKey_frame u pressed s).kb
  have henabled : (kbKey u pressed s).kb.enabled = s.kb.enabled := by rw [hframe]
  refine h.update (by rw [hframe]) ?_
  rcases kbKey_held u pressed s with ⟨hk, ht⟩ | hoff | ⟨hk, ht, he, hmake, hrep⟩
  · exact .inl ⟨hk, by rw [ht], .inl henabled⟩
  · exact .inr (.inl hoff)
  · exact .inr (.inr ⟨u, hk, by simp [ht], henabled.trans he, holdable_of_repeatable hmake hrep⟩)

theorem KbState.Wf.afterMount (cfg : Config) : (KbState.afterMount cfg).Wf cfg :=
  ⟨by simp [KbState.afterMount], by simp [KbState.afterMount], by simp [KbState.afterMount], List.nodup_nil,
    List.not_mem_nil⟩

/-! ## The keys of a normal form (R331) -/

theorem bootKeys_concat (slots : List Byte) (k : Byte) : bootKeys (slots ++ [k]) =
    if k ≠ 0x00 ∧ k ∉ bootKeys slots then bootKeys slots ++ [k] else bootKeys slots := List.foldl_concat ..

theorem bootKeys_nodup (slots : List Byte) : (bootKeys slots).Nodup := by
  induction slots using List.reverseRecOn with
  | nil => exact List.nodup_nil
  | append_singleton slots k ih =>
    rw [bootKeys_concat]
    split_ifs with h
    · exact List.nodup_append.2 ⟨ih, List.nodup_singleton k, by
        simp only [List.mem_singleton, ne_eq, forall_eq]
        exact fun a ha hak => h.2 (hak ▸ ha)⟩
    · exact ih

theorem mem_bootKeys {slots : List Byte} {u : Byte} : u ∈ bootKeys slots ↔ u ≠ 0x00 ∧ u ∈ slots := by
  induction slots using List.reverseRecOn with
  | nil => simp [bootKeys]
  | append_singleton slots k ih =>
    have hk : u ∈ bootKeys (slots ++ [k]) ↔ u ∈ bootKeys slots ∨ (u ≠ 0x00 ∧ u = k) := by
      rw [bootKeys_concat]
      split_ifs with h
      · simp only [List.mem_append, List.mem_singleton]
        grind
      · grind
    rw [hk, ih]
    simp only [List.mem_append, List.mem_singleton]
    tauto

theorem normReport_keys_nodup (layout : NkroLayout) (r : KbReport) : (normReport layout r).keys.Nodup := by
  cases r with
  | boot => exact bootKeys_nodup _
  | nkro => exact (nkroKeys_ascending _ _).imp fun hlt heq => by simp [heq] at hlt

theorem normReport_keys_nonzero (layout : NkroLayout) (r : KbReport) : (0x00 : Byte) ∉ (normReport layout r).keys := by
  cases r with
  | boot => exact fun h => (mem_bootKeys.1 h).1 rfl
  | nkro => exact fun h => (mem_nkroKeys.1 h).1 rfl

theorem StateInv.recorded {t : State} (h : StateInv t) (layout : NkroLayout) (r : KbReport) :
    StateInv (t.setKb { t.kb with
      prevMods := (normReport layout r).mods, prevKeys := (normReport layout r).keys }) :=
  ⟨h.kbLink, h.msLink,
    ⟨h.kb.timer_off_iff, h.kb.held_makes, h.kb.disabled_holds_none, normReport_keys_nodup layout r,
      normReport_keys_nonzero layout r⟩, h.acc⟩

/-! ## The whole invariant -/

theorem StateInv.setLink {s : State} (h : StateInv s) (d : Dev) {l : Link} (hl : l.Wf s.cfg.qcap.val) :
    StateInv (s.setLink d l) := by
  cases d with
  | kb => exact ⟨hl, h.msLink, h.kb, h.acc⟩
  | ms => exact ⟨h.kbLink, hl, h.kb, h.acc⟩

theorem StateInv.link {s : State} (h : StateInv s) (d : Dev) : (s.link d).Wf s.cfg.qcap.val := by
  cases d with
  | kb => exact h.kbLink
  | ms => exact h.msLink

theorem StateInv.send {s : State} (h : StateInv s) (d : Dev) (p : Packet) : StateInv (send d p s) := by
  rw [send_eq]
  exact h.setLink d ((h.link d).queueAfter p)

theorem StateInv.kbFrame {f : Bool} {s t : State} (h : StateInv s) (hf : KbFrame f s t) : StateInv t := by
  have hlink := hf.link.wf (h.link .kb)
  rw [hf.rest]
  exact ⟨hlink, h.msLink, hf.kb_wf h.kb, h.acc⟩

theorem StateInv.msFrame {f : Bool} {s t : State} (h : StateInv s) (hf : MsFrame f s t) : StateInv t := by
  have hlink := hf.link.wf (h.link .ms)
  have hacc : t.ms.acc.Wf := by
    rcases hf.acc with ha | ha <;> rw [ha]
    · exact h.acc
    · exact MouseAcc.Wf.zero
  rw [hf.rest]
  exact ⟨h.kbLink, hlink, h.kb, hacc⟩

theorem StateInv.kbKey {s : State} (h : StateInv s) (u : Byte) (pressed : Bool) : StateInv (kbKey u pressed s) := by
  obtain ⟨p, hlink⟩ := kbKey_queue u pressed s
  have hwf := h.kbLink.queueAfter (d := .kb) p
  rw [(kbKey_frame u pressed s).rest, hlink]
  exact ⟨hwf, h.msLink, kbKey_kb_wf u pressed h.kb, h.acc⟩

theorem StateInv.kbKeys {s : State} (h : StateInv s) (es : List KeyEvent) : StateInv (kbKeys es s) :=
  kbKeys_induction (P := StateInv) (fun u pressed _ h => h.kbKey u pressed) es s h

theorem StateInv.msTick {s : State} (h : StateInv s) : StateInv (msTick s) := by
  obtain ⟨acc, st, p, hacc, heq⟩ := msTick_frame s
  rw [heq]
  exact ⟨h.kbLink, h.msLink.queueAfter (d := .ms) p, h.kb, hacc h.acc⟩

/-- Every instruction keeps the invariant. -/
theorem StateInv.ran {i : Instr} {s t : State} (h : StateInv s) (hran : Ran i s t) : StateInv t := by
  cases hran with
  | returned => exact ⟨h.kbLink, h.msLink, h.kb, h.acc⟩
  | kbByte _ _ hf => exact h.kbFrame hf
  | msByte _ _ hf => exact h.msFrame hf
  | kbReceived _ _ hf => exact h.kbFrame hf
  | msReceived _ _ hf => exact h.msFrame hf
  | parityError d => exact h.send d _
  | badFrame d => exact h.send d _
  | @tx _ d _ _ _ hq => exact h.setLink d ((h.link d).afterTx hq)
  | kbReport r ht => exact (ht ▸ h.kbKeys _).recorded _ r
  | msReport _ _ hacc => exact ⟨h.kbLink, h.msLink, h.kb, hacc⟩
  | kbTick p hon =>
    have hsend := h.send .kb p
    rw [send_eq] at hsend ⊢
    exact ⟨hsend.kbLink, hsend.msLink, h.kb.update rfl (.inl ⟨rfl, by simp [hon], .inl rfl⟩), h.acc⟩
  | msTick => exact h.msTick
  | mount => exact ⟨Link.Wf.empty, Link.Wf.empty, KbState.Wf.afterMount s.cfg, MouseAcc.Wf.zero⟩

/-! ## O56 and O57 -/

/-- Settles O56: State.reset is made of the parts that `Mount` writes. -/
theorem resetMeetsTheInvariant : Obligations.ResetMeetsTheInvariant :=
  ⟨Link.Wf.empty, Link.Wf.empty, KbState.Wf.afterMount sampleConfig, MouseAcc.Wf.zero⟩

/-- A step waits, or takes the next input from the schedule and runs an instruction. -/
theorem step_cases {s t : State} (h : step s = .next t) :
    t = s ∨ ∃ w rest i, s.schedule = w :: rest ∧ exec i { s with schedule := rest } = .next t := by
  unfold step fetchInput at h
  cases hs : s.schedule with
  | nil => rw [hs] at h; cases h; exact .inl rfl
  | cons w rest =>
    rw [hs] at h
    dsimp only at h
    split_ifs at h
    split at h
    · exact .inr ⟨w, rest, _, rfl, h⟩
    · cases h

/-- Settles O57: the schedule is no part of the invariant, and the instruction that runs keeps it. -/
theorem everyStepKeepsTheInvariant : Obligations.EveryStepKeepsTheInvariant := by
  intro s t h hstep
  rcases step_cases hstep with rfl | ⟨w, rest, i, -, hexec⟩
  · exact h
  · have hrest : StateInv { s with schedule := rest } := ⟨h.kbLink, h.msLink, h.kb, h.acc⟩
    exact hrest.ran (exec_ran hexec)

end Sys2Proof.Machine
end

section
/-! The decoder and the encoder (30_encoding.md R104, R107, R110, R120, R139): what an input decodes to is well formed,
admitted in its context and has the input for its word; with Laws/PerInstr.lean, which has the converse, O58. -/

namespace Sys2Proof

open Machine

/-- The instruction is well formed, may come in the context, and has the input for its word. -/
def Instr.Reads (i : Instr) (c : DecodeCtx) (w : Input) : Prop :=
  i.wf = true ∧ i.admittedIn c = true ∧ encode i = w

/-! ## Host bytes (R110, R111, R120, R121) -/

theorem decodeKbCommand_reads (p : MsPending) (b : Byte) : (decodeKbCommand b).Reads ⟨.idle, p⟩ (.hostByte .kb b) := by
  have hwf : ∀ b, (decodeKbCommand b).wf = true := by decide +kernel
  have hword : ∀ b, encode (decodeKbCommand b) = .hostByte .kb b := by decide +kernel
  have hadmitted : ∀ b, (decodeKbCommand b).admittedIn ⟨.idle, p⟩ = true := by cases p <;> decide +kernel
  exact ⟨hwf b, hadmitted b, hword b⟩

theorem decodeMsCommand_reads (p : KbPending) (b : Byte) : (decodeMsCommand b).Reads ⟨p, .idle⟩ (.hostByte .ms b) := by
  have hwf : ∀ b, (decodeMsCommand b).wf = true := by decide +kernel
  have hword : ∀ b, encode (decodeMsCommand b) = .hostByte .ms b := by decide +kernel
  have hadmitted : (decodeMsCommand b).admittedIn ⟨p, .idle⟩ = true := by
    rw [decodeMsCommand_eq]
    split_ifs <;> rfl
  exact ⟨hwf b, hadmitted, hword b⟩

theorem decodeKbByte_reads (c : DecodeCtx) (b : Byte) : (decodeKbByte c.kb b).Reads c (.hostByte .kb b) := by
  obtain ⟨pkb, pms⟩ := c
  cases pkb with
  | idle => exact decodeKbCommand_reads pms b
  | typematic => exact ⟨rfl, rfl, congrArg (Input.hostByte .kb) (typematic_fields b)⟩
  | keyMode m => exact ⟨rfl, beq_self_eq_true (KbPending.keyMode m), rfl⟩
  | led => exact ⟨rfl, rfl, rfl⟩
  | scanSet => exact ⟨rfl, rfl, rfl⟩

theorem decodeMsByte_reads (c : DecodeCtx) (b : Byte) : (decodeMsByte c.ms b).Reads c (.hostByte .ms b) := by
  obtain ⟨pkb, pms⟩ := c
  cases pms with
  | idle => exact decodeMsCommand_reads pkb b
  | rate => exact ⟨rfl, rfl, rfl⟩

/-! ## Packets (R107) -/

/-- Constant bits, button bits and sign flags make up the whole first byte. -/
theorem byte1_of_fields : ∀ b1 : Byte, b1.extractLsb' 6 2 = 0#2 → b1.getLsbD 3 = true →
    0x08 ||| (b1.extractLsb' 0 3).setWidth 8 ||| (if b1.getLsbD 4 then 0x10 else 0x00) |||
      (if b1.getLsbD 5 then 0x20 else 0x00) = b1 := by decide +kernel

/-- A first byte that passes the head check is the one made from its own button bits. -/
theorem msByte1_of_packetHead {b1 btn : Byte} {x y : BitVec 8} (h : packetHead b1 x y = true)
    (hbtn : btn &&& 0x07 = (b1.extractLsb' 0 3).setWidth 8) : msByte1 x.toInt y.toInt btn = b1 := by
  simp only [packetHead, Bool.and_eq_true, beq_iff_eq] at h
  obtain ⟨⟨⟨hconst, hone⟩, hx⟩, hy⟩ := h
  rw [msByte1_eq, hbtn, ← hx, ← hy]
  exact byte1_of_fields b1 hconst hone

theorem buttons3_masked : ∀ btn : BitVec 3, btn.setWidth 8 &&& 0x07 = btn.setWidth 8 := by decide +kernel

theorem buttons5_masked : ∀ (hi : BitVec 2) (lo : BitVec 3), (hi ++ lo).setWidth 8 &&& 0x07 = lo.setWidth 8 := by
  decide +kernel

/-- The low nibble and the two high buttons make up the fourth byte of a Wheel5 packet. -/
theorem wheel5_byte4_of_fields : ∀ (b4 : Byte) (lo : BitVec 3), b4.extractLsb' 6 2 = 0#2 →
    (b4.extractLsb' 0 4).setWidth 8 ||| ((((b4.extractLsb' 4 2 ++ lo).setWidth 8 >>> 3) &&& 0x03) <<< 4) = b4 := by
  decide +kernel

/-- Byte 3 holds the negated Y. -/
theorem low8_sub_neg_toInt (b : Byte) : low8 (0x100 - (-b).toInt) = b := by rw [low8_sub_toInt, BitVec.neg_neg]

theorem msPacket_standard_of_packetHead {b1 b2 b3 : Byte} (h : packetHead b1 b2 (-b3) = true) :
    msPacket b2.toInt (-b3).toInt 0 ((b1.extractLsb' 0 3).setWidth 8) .standard = [b1, b2, b3] := by
  rw [msPacket, msByte1_of_packetHead h (buttons3_masked _), low8_toInt b2, low8_sub_neg_toInt]

theorem msPacket_wheel3_of_packetHead {b1 b2 b3 b4 : Byte} (h : packetHead b1 b2 (-b3) = true)
    (h4 : (b4.extractLsb' 0 4).signExtend 8 = b4) :
    msPacket b2.toInt (-b3).toInt (b4.extractLsb' 0 4).toInt ((b1.extractLsb' 0 3).setWidth 8) .wheel3 =
      [b1, b2, b3, b4] := by
  rw [msPacket, msByte1_of_packetHead h (buttons3_masked _), low8_toInt b2, low8_sub_neg_toInt,
    ← (wheel3_byte4 _).1, h4]

theorem msPacket_wheel5_of_packetHead {b1 b2 b3 b4 : Byte} (h : packetHead b1 b2 (-b3) = true)
    (h4 : b4.extractLsb' 6 2 = 0#2) :
    msPacket b2.toInt (-b3).toInt (b4.extractLsb' 0 4).toInt
        ((b4.extractLsb' 4 2 ++ b1.extractLsb' 0 3 : BitVec 5).setWidth 8) .wheel5 = [b1, b2, b3, b4] := by
  rw [msPacket, msByte1_of_packetHead h (buttons5_masked _ _), low8_toInt b2, low8_sub_neg_toInt, low4_toInt,
    wheel5_byte4_of_fields b4 _ h4]

theorem decodePacket_reads {c : DecodeCtx} {t : DeviceType} {p : Packet} {i : Instr} (h : decodePacket t p = .ok i) :
    i.Reads c (.packet t p) := by
  unfold decodePacket at h
  split at h
  · split_ifs at h with hhead
    cases h
    exact ⟨rfl, rfl, congrArg (Input.packet .standard) (msPacket_standard_of_packetHead hhead)⟩
  · split_ifs at h with hhead
    cases h
    simp only [Bool.and_eq_true, beq_iff_eq] at hhead
    exact ⟨rfl, rfl, congrArg (Input.packet .wheel3) (msPacket_wheel3_of_packetHead hhead.1 hhead.2)⟩
  · split_ifs at h with hhead
    cases h
    simp only [Bool.and_eq_true, beq_iff_eq] at hhead
    exact ⟨rfl, rfl, congrArg (Input.packet .wheel5) (msPacket_wheel5_of_packetHead hhead.1 hhead.2)⟩
  · cases h

/-! ## O58 -/

theorem decode_reads {c : DecodeCtx} {w : Input} {i : Instr} (h : decode c w = .ok i) : i.Reads c w := by
  cases w with
  | hostByte d b =>
    cases d with
    | kb => cases h; exact decodeKbByte_reads c b
    | ms => cases h; exact decodeMsByte_reads c b
  | frameOut f =>
    cases hf : decodeFrame f with
    | ok b =>
      rw [decode, hf] at h
      cases h
      exact ⟨rfl, rfl, congrArg Input.frameOut (eq_encodeFrame_of_decodeFrame hf).symm⟩
    | parityError => rw [decode, hf] at h; cases h
  | packet t p => exact decodePacket_reads h
  | kbBoot r | kbNkro r | msBoot r =>
    unfold decode at h
    split at h <;> rename_i heq <;> cases heq <;> cases h
    exact ⟨rfl, rfl, rfl⟩
  | _ => cases h; exact ⟨rfl, rfl, rfl⟩

theorem decode_encode (i : Instr) : Laws.RoundTrip.Statement i := by
  open Laws.RoundTrip in
  cases i with
  | frameEncode b => exact frameEncode b
  | frameDecode f => exact frameDecode f
  | kbReset => exact kbReset
  | kbResend => exact kbResend
  | kbKeymake => exact kbKeymake
  | kbKeymakebreak => exact kbKeymakebreak
  | kbKeytypematic => exact kbKeytypematic
  | kbAlltmb => exact kbAlltmb
  | kbAllmake => exact kbAllmake
  | kbAllmakebreak => exact kbAllmakebreak
  | kbAlltypematic => exact kbAlltypematic
  | kbSetdefaults => exact kbSetdefaults
  | kbDisable => exact kbDisable
  | kbEnable => exact kbEnable
  | kbSettypematic => exact kbSettypematic
  | kbReadid => exact kbReadid
  | kbSetscanset => exact kbSetscanset
  | kbEcho => exact kbEcho
  | kbSetleds => exact kbSetleds
  | kbUnknown b => exact kbUnknown b
  | kbPLed mask => exact kbPLed mask
  | kbPTypematic ignored delay rate => exact kbPTypematic ignored delay rate
  | kbPScanset n => exact kbPScanset n
  | kbPKeymode m code => exact kbPKeymode m code
  | msReset => exact msReset
  | msSetdefaults => exact msSetdefaults
  | msDisable => exact msDisable
  | msEnable => exact msEnable
  | msSetrate => exact msSetrate
  | msGetid => exact msGetid
  | msSetstream => exact msSetstream
  | msStatus => exact msStatus
  | msUnknown b => exact msUnknown b
  | msPRate rate => exact msPRate rate
  | evMount => exact evMount
  | evRxframe d f => exact evRxframe d f
  | evParityerror d => exact evParityerror d
  | evTx d => exact evTx d
  | evKbreport r => exact evKbreport r
  | evMsreport r => exact evMsreport r
  | evKbtick => exact evKbtick
  | evMstick => exact evMstick
  | mspkt3 btn x y => exact mspkt3 btn x y
  | mspkt4Wheel3 btn x y z => exact mspkt4Wheel3 btn x y z
  | mspkt4Wheel5 btn x y z => exact mspkt4Wheel5 btn x y z

/-- Settles O58: `decode_reads` one way, the round trip of every constructor the other. -/
theorem decodeAndEncodeAgree : Obligations.DecodeAndEncodeAgree := by
  intro c w i
  constructor
  · exact decode_reads
  · rintro ⟨hwf, hadmitted, rfl⟩
    exact decode_encode i c hwf hadmitted

end Sys2Proof
end

section
/-! The outbound streams (20_memory.md R92; 41_link.md R168, R175): an enqueue and a transmission only extend them, the one
exception is the flush of a device's reset, and O11. -/

namespace Sys2Proof.Machine

/-! ## Enqueues -/

theorem link_setLink_of_ne {d d' : Dev} (h : d' ≠ d) (s : State) (l : Link) : (s.setLink d l).link d' = s.link d' := by
  cases d <;> cases d' <;> first | rfl | exact absurd rfl h

theorem send_stream_prefix {s : State} (h : StateInv s) (d d' : Dev) (p : Packet) :
    (s.link d').stream <+: ((send d p s).link d').stream := by
  by_cases hd : d' = d
  · subst hd
    obtain ⟨more, hmore⟩ := Link.stream_queueAfter (h.link d') p
    rw [send_eq, link_setLink, hmore]
    exact List.prefix_append _ _
  · rw [send_eq, link_setLink_of_ne hd]

/-- A key event does to the Links what some enqueue does. -/
theorem kbKey_link (u : Byte) (pressed : Bool) (s : State) :
    ∃ p, ∀ d, (kbKey u pressed s).link d = (send .kb p s).link d := by
  obtain ⟨p, hlink⟩ := kbKey_queue u pressed s
  refine ⟨p, fun d => ?_⟩
  rw [send_eq]
  cases d with
  | kb => exact hlink
  | ms => rw [(kbKey_frame u pressed s).rest]; rfl

theorem kbKeys_stream_prefix {s : State} (h : StateInv s) (es : List KeyEvent) (d : Dev) :
    (s.link d).stream <+: ((kbKeys es s).link d).stream := by
  have hboth : StateInv (kbKeys es s) ∧ (s.link d).stream <+: ((kbKeys es s).link d).stream := by
    refine kbKeys_induction (P := fun t => StateInv t ∧ (s.link d).stream <+: (t.link d).stream) ?_ es s
      ⟨h, List.prefix_rfl⟩
    rintro u pressed t ⟨hinv, hprefix⟩
    obtain ⟨p, hlink⟩ := kbKey_link u pressed t
    rw [hlink d]
    exact ⟨hinv.kbKey u pressed, hprefix.trans (send_stream_prefix hinv .kb d p)⟩
  exact hboth.2

/-- A tick does to the Links what some enqueue does. -/
theorem msTick_link (s : State) : ∃ p, ∀ d, (msTick s).link d = (send .ms p s).link d := by
  obtain ⟨acc, st, p, -, heq⟩ := msTick_frame s
  refine ⟨p, fun d => ?_⟩
  rw [heq, send_eq]
  cases d <;> rfl

/-! ## Replies -/

/-- What O11 says of one device. -/
def StreamKept (resets : Bool) (l l' : Link) : Prop := l.stream <+: l'.stream ∨ (resets = true ∧ l'.wire = l.wire)

theorem Replied.streamKept {f : Bool} {s t : State} {d : Dev} (h : Replied f s t d) (hinv : StateInv s) :
    StreamKept f (s.link d) (t.link d) := by
  cases f with
  | true => exact .inr ⟨rfl, h.wire⟩
  | false =>
    obtain ⟨p, hlink⟩ := h
    have hprefix := send_stream_prefix hinv d d p
    rw [send_eq, link_setLink] at hprefix
    rw [hlink]
    exact .inl hprefix

theorem KbFrame.streamKept {f : Bool} {s t : State} (h : KbFrame f s t) (hinv : StateInv s) (d : Dev) :
    StreamKept (d == .kb && f) (s.link d) (t.link d) := by
  cases d with
  | kb => exact h.link.streamKept hinv
  | ms =>
    rw [h.rest]
    exact .inl List.prefix_rfl

theorem MsFrame.streamKept {f : Bool} {s t : State} (h : MsFrame f s t) (hinv : StateInv s) (d : Dev) :
    StreamKept (d == .ms && f) (s.link d) (t.link d) := by
  cases d with
  | ms => exact h.link.streamKept hinv
  | kb =>
    rw [h.rest]
    exact .inl List.prefix_rfl

/-! ## Which bytes are a reset (R111, R121) -/

theorem decodeKbByte_eq_kbReset {p : KbPending} {b : Byte} (h : decodeKbByte p b = .kbReset) :
    p = .idle ∧ b = 0xFF := by
  obtain ⟨-, hadmitted, hword⟩ := decodeKbByte_reads ⟨p, .idle⟩ b
  rw [h] at hadmitted hword
  exact ⟨eq_of_beq hadmitted, by cases hword; rfl⟩

theorem decodeMsByte_eq_msReset {p : MsPending} {b : Byte} (h : decodeMsByte p b = .msReset) :
    p = .idle ∧ b = 0xFF := by
  obtain ⟨-, hadmitted, hword⟩ := decodeMsByte_reads ⟨.idle, p⟩ b
  rw [h] at hadmitted hword
  exact ⟨eq_of_beq hadmitted, by cases hword; rfl⟩

theorem delivered_evRxframe {d : Dev} {f : Frame} {b : Byte} (h : decodeFrame f = .ok b) :
    delivered (.evRxframe d f) d = some b := by simp [delivered, h]

theorem resetsKb_of_decodes {s : State} {f : Frame} {b : Byte} (hf : decodeFrame f = .ok b)
    (h : decodeKbByte s.kb.pending b = .kbReset) : resetsKb (.evRxframe .kb f) s = true := by
  obtain ⟨hp, rfl⟩ := decodeKbByte_eq_kbReset h
  simp [resetsKb, delivered_evRxframe hf, hp]

theorem resetsMs_of_decodes {s : State} {f : Frame} {b : Byte} (hf : decodeFrame f = .ok b)
    (h : decodeMsByte s.ms.pending b = .msReset) : resetsMs (.evRxframe .ms f) s = true := by
  obtain ⟨hp, rfl⟩ := decodeMsByte_eq_msReset h
  simp [resetsMs, delivered_evRxframe hf, hp]

/-! ## O11 -/

theorem StreamKept.imp {a b : Bool} {l l' : Link} (h : StreamKept a l l') (hab : a = true → b = true) :
    StreamKept b l l' := Or.imp_right (And.imp_left hab) h

theorem Ran.streamKept {i : Instr} {s t : State} (h : Ran i s t) (hinv : StateInv s) (hi : i ≠ .evMount) (d : Dev) :
    StreamKept (resetsDev d i s) (s.link d) (t.link d) := by
  cases h with
  | returned => cases d <;> exact .inl List.prefix_rfl
  | kbByte _ _ hf =>
    refine (hf.streamKept hinv d).imp fun hreset => ?_
    simp only [Bool.and_eq_true, beq_iff_eq] at hreset
    obtain ⟨rfl, rfl⟩ := hreset
    rfl
  | msByte _ _ hf =>
    refine (hf.streamKept hinv d).imp fun hreset => ?_
    simp only [Bool.and_eq_true, beq_iff_eq] at hreset
    obtain ⟨rfl, rfl⟩ := hreset
    rfl
  | kbReceived hok _ hf =>
    refine (hf.streamKept hinv d).imp fun hreset => ?_
    simp only [Bool.and_eq_true, beq_iff_eq] at hreset
    obtain ⟨rfl, hdec⟩ := hreset
    exact resetsKb_of_decodes hok hdec
  | msReceived hok _ hf =>
    refine (hf.streamKept hinv d).imp fun hreset => ?_
    simp only [Bool.and_eq_true, beq_iff_eq] at hreset
    obtain ⟨rfl, hdec⟩ := hreset
    exact resetsMs_of_decodes hok hdec
  | parityError d' => exact .inl (send_stream_prefix hinv d' d _)
  | badFrame d' => exact .inl (send_stream_prefix hinv d' d _)
  | @tx _ d' p rest b hq hb =>
    have hsame := Link.stream_afterTx hq hb
    by_cases hd : d = d'
    · subst hd
      rw [link_setLink]
      exact .inl (hsame ▸ List.prefix_rfl)
    · rw [link_setLink_of_ne hd]
      exact .inl List.prefix_rfl
  | kbReport _ ht =>
    rw [link_setKb, ht]
    exact .inl (kbKeys_stream_prefix hinv _ d)
  | msReport =>
    rw [link_setMs]
    exact .inl List.prefix_rfl
  | kbTick p =>
    rw [link_setKb]
    exact .inl (send_stream_prefix hinv .kb d p)
  | msTick =>
    obtain ⟨p, hlink⟩ := msTick_link s
    rw [hlink d]
    exact .inl (send_stream_prefix hinv .ms d p)
  | mount => exact absurd rfl hi

/-- Settles O11: every case of `Ran` enqueues, transmits, leaves the Link alone, or is the device's reset. -/
theorem outboundStreamOnlyGrows : Obligations.OutboundStreamOnlyGrows := by
  intro s t i d hinv hi hexec
  rcases (exec_ran hexec).streamKept hinv hi d with ⟨more, hmore⟩ | hreset
  · exact .inl ⟨more, hmore.symm⟩
  · exact .inr hreset

end Sys2Proof.Machine
end

section
/-! The separation of the two devices (10_state.md R20, 60_exceptions.md R405): and O51. -/

namespace Sys2Proof.Machine

/-! ## What an instruction leaves of the other device -/

/-- The keyboard's side of the block: its registers, its Link, the LED trace. -/
def SameKb (s t : State) : Prop := t.kb = s.kb ∧ t.kbLink = s.kbLink ∧ t.leds = s.leds

/-- The mouse's side of the block. -/
def SameMs (s t : State) : Prop := t.ms = s.ms ∧ t.msLink = s.msLink

theorem actsOn_kb_of_isKbByte {i : Instr} (h : isKbByte i = true) : actsOn i .kb = true := by
  cases i <;> first | rfl | cases h

theorem actsOn_ms_of_isMsByte {i : Instr} (h : isMsByte i = true) : actsOn i .ms = true := by
  cases i <;> first | rfl | cases h

theorem KbFrame.sameMs {f : Bool} {s t : State} (h : KbFrame f s t) : SameMs s t := by
  rw [h.rest]
  exact ⟨rfl, rfl⟩

theorem MsFrame.sameKb {f : Bool} {s t : State} (h : MsFrame f s t) : SameKb s t := by
  rw [h.rest]
  exact ⟨rfl, rfl, rfl⟩

theorem setLink_sameKb {s : State} {d : Dev} {l : Link} (h : (d == .kb) = false) : SameKb s (s.setLink d l) := by
  cases d with
  | kb => cases h
  | ms => exact ⟨rfl, rfl, rfl⟩

theorem setLink_sameMs {s : State} {d : Dev} {l : Link} (h : (d == .ms) = false) : SameMs s (s.setLink d l) := by
  cases d with
  | kb => exact ⟨rfl, rfl⟩
  | ms => cases h

theorem Ran.sameKb {i : Instr} {s t : State} (h : Ran i s t) (hi : actsOn i .kb = false) : SameKb s t := by
  cases h with
  | kbByte hkb => rw [actsOn_kb_of_isKbByte hkb] at hi; cases hi
  | msByte _ _ hf | msReceived _ _ hf => exact hf.sameKb
  | parityError | badFrame => rw [send_eq]; exact setLink_sameKb hi
  | tx => exact setLink_sameKb hi
  | returned | msReport => exact ⟨rfl, rfl, rfl⟩
  | msTick =>
    obtain ⟨acc, st, p, -, heq⟩ := msTick_frame s
    rw [heq]
    exact ⟨rfl, rfl, rfl⟩
  | kbReceived | kbReport | kbTick | mount => cases hi

theorem Ran.sameMs {i : Instr} {s t : State} (h : Ran i s t) (hi : actsOn i .ms = false) : SameMs s t := by
  cases h with
  | msByte hms => rw [actsOn_ms_of_isMsByte hms] at hi; cases hi
  | kbByte _ _ hf | kbReceived _ _ hf => exact hf.sameMs
  | parityError | badFrame => rw [send_eq]; exact setLink_sameMs hi
  | tx => exact setLink_sameMs hi
  | returned => exact ⟨rfl, rfl⟩
  | kbTick => rw [send_eq]; exact ⟨rfl, rfl⟩
  | kbReport r ht =>
    rw [ht, (kbKeys_frame _ s).rest]
    exact ⟨rfl, rfl⟩
  | msReceived | msReport | msTick | mount => cases hi

/-- Settles O51: the two halves, by the cases of `Ran`. -/
theorem eachInstructionStaysOnItsDevice : Obligations.EachInstructionStaysOnItsDevice := fun _ _ _ hexec =>
  ⟨(exec_ran hexec).sameKb, (exec_ran hexec).sameMs⟩

end Sys2Proof.Machine
end

section
/-! Key events (43_keyboard_keys_typematic.md): a press and a release as whole next states, and O32 to O36. -/

namespace Sys2Proof.Machine

/-! ## Scan codes and key modes (R72, R241, R44) -/

theorem makeCode_of_no_row {cfg : Config} {set : ScanSet} {u : Byte} (h : ∀ r ∈ cfg.scanTable, r.usage ≠ u) :
    makeCode cfg set u = [] := by
  rw [makeCode, scanRow_none h]

theorem makeCode_of_row {cfg : Config} {set : ScanSet} {u : Byte} {r : ScanRow} (h : scanRow cfg u = some r) :
    makeCode cfg set u = match set with | .set1 => r.make1 | .set2 => r.make2 | .set3 => r.make3 := by
  cases set <;> rw [makeCode, h]

theorem breakCode_pause (cfg : Config) (set : ScanSet) : breakCode cfg set pauseUsage = [] := if_pos rfl

theorem breakCode_of_no_row {cfg : Config} {set : ScanSet} {u : Byte} (h : ∀ r ∈ cfg.scanTable, r.usage ≠ u) :
    breakCode cfg set u = [] := by
  rw [breakCode, scanRow_none h, ite_self]

theorem breakCode_of_row {cfg : Config} {set : ScanSet} {u : Byte} {r : ScanRow} (hu : u ≠ pauseUsage)
    (h : scanRow cfg u = some r) :
    breakCode cfg set u = match set with | .set1 => r.break1 | .set2 => r.break2 | .set3 => r.break3 := by
  cases set <;> rw [breakCode, if_neg hu, h]

theorem isModifier_iff : ∀ u : Byte, isModifier u = true ↔ 0xE0 ≤ u.toNat ∧ u.toNat ≤ 0xE7 := by decide +kernel

/-- A flag of the key mode is off, or there is no set-3 code to have a mode. -/
theorem modeOfUsage_any_iff (cfg : Config) (kb : KbState) (u : Byte) (f : KeyMode → Bool) :
    (modeOfUsage cfg kb u).any f = false ↔
      ∀ c : Byte, (makeCode cfg .set3 u).getLast? = some c → f (kb.keyMode[c.toNat]'c.isLt) = false := by
  unfold modeOfUsage set3Code
  cases (makeCode cfg .set3 u).getLast? <;> simp

/-- When a pressed key is not held (R245). -/
theorem repeatable_eq_false_iff (cfg : Config) (kb : KbState) (u : Byte) (set : ScanSet) :
    repeatable cfg kb u set = false ↔ (0xE0 ≤ u.toNat ∧ u.toNat ≤ 0xE7) ∨ u = 0x48 ∨
      (set = .set3 ∧ ∀ c : Byte, (makeCode cfg .set3 u).getLast? = some c →
        (kb.keyMode[c.toNat]'c.isLt).rep = false) := by
  rw [← isModifier_iff, ← modeOfUsage_any_iff cfg kb u (fun m => m.rep)]
  simp only [repeatable, pauseUsage, Bool.and_eq_false_iff, Bool.or_eq_false_iff, Bool.not_eq_false', bne_eq_false_iff_eq,
    or_assoc]

/-- When a release sends no break code (R247). -/
theorem sendsBreak_eq_false_iff (cfg : Config) (kb : KbState) (u : Byte) (set : ScanSet) :
    sendsBreak cfg kb u set = false ↔ set = .set3 ∧ ∀ c : Byte, (makeCode cfg .set3 u).getLast? = some c →
      (kb.keyMode[c.toNat]'c.isLt).brk = false := by
  rw [← modeOfUsage_any_iff cfg kb u (fun m => m.brk)]
  simp only [sendsBreak, Bool.or_eq_false_iff, bne_eq_false_iff_eq]

/-! ## One key event as a whole next state (R244, R247) -/

theorem kbKey_of_enabled {s : State} (h : s.kb.enabled = true) (u : Byte) (pressed : Bool) : kbKey u pressed s =
    if pressed then kbPress u s.kb.scanCodeSet s else kbRelease u s.kb.scanCodeSet s := by
  simp only [kbKey, h, Bool.not_true, Bool.false_eq_true, if_false]

theorem kbPress_eq (u : Byte) (set : ScanSet) (s : State) : kbPress u set s =
    if makeCode s.cfg set u = [] then s
    else { s with
      kb := if repeatable s.cfg s.kb u set then { s.kb with heldKey := some u, timer := .delay } else s.kb
      kbLink := { s.kbLink with q := queueAfter s .kb (makeCode s.cfg set u) } } := by
  unfold kbPress
  split_ifs with hmake hrep
  · rfl
  · rw [send_kb_eq]; rfl
  · rw [send_kb_eq]

/-- Where no break code is sent the packet is empty. -/
theorem kbRelease_eq (u : Byte) (set : ScanSet) (s : State) : kbRelease u set s = { s with
    kb := if s.kb.heldKey = some u then { s.kb with heldKey := none, timer := .off } else s.kb
    kbLink := { s.kbLink with q :=
      (queueAfter s .kb (if sendsBreak s.cfg s.kb u set then breakCode s.cfg set u else [])) } } := by
  have hsent : (if sendsBreak s.cfg s.kb u set then send .kb (breakCode s.cfg set u) s else s) =
      { s with kbLink := { s.kbLink with q :=
        (queueAfter s .kb (if sendsBreak s.cfg s.kb u set then breakCode s.cfg set u else [])) } } := by
    rw [← send_kb_eq]
    split_ifs
    · rfl
    · exact (send_nil .kb s).symm
  unfold kbRelease
  dsimp only
  rw [hsent]
  split_ifs <;> rfl

/-! ## Reports that change one key (R334) -/

/-- A report with the modifiers as they were and one new key. -/
theorem execEvKbreport_one_new {s : State} {u : Byte} (reserved : Byte) (hprev : s.kb.prevKeys = []) (hu : u ≠ 0x00) :
    execEvKbreport (.boot s.kb.prevMods reserved u 0 0 0 0 0) s = .next (
      let t := kbKey u true s
      { t with kb := { t.kb with prevKeys := [u] } }) := by
  have hnorm : normReport s.cfg.nkroLayout (.boot s.kb.prevMods reserved u 0 0 0 0 0) = ⟨s.kb.prevMods, [u]⟩ := by
    simp [normReport, bootKeys, show ¬ u = 0#8 from hu]
  have hdiff : diffEvents s.kb.prevMods s.kb.prevKeys ⟨s.kb.prevMods, [u]⟩ = [⟨u, true, s.kb.prevMods⟩] := by
    simp [diffEvents, modifierEvents_self, releaseEvents, pressEvents, hprev]
  have hmods : (kbKey u true s).kb.prevMods = s.kb.prevMods := by rw [(kbKey_frame u true s).kb]
  unfold execEvKbreport
  dsimp only
  rw [hnorm, hdiff, ← hmods]
  rfl

/-- A report with the modifiers as they were and the only key gone. -/
theorem execEvKbreport_only_gone {s : State} {u : Byte} (reserved : Byte) (hprev : s.kb.prevKeys = [u]) :
    execEvKbreport (.boot s.kb.prevMods reserved 0 0 0 0 0 0) s = .next (
      let t := kbKey u false s
      { t with kb := { t.kb with prevKeys := [] } }) := by
  have hnorm : normReport s.cfg.nkroLayout (.boot s.kb.prevMods reserved 0 0 0 0 0 0) = ⟨s.kb.prevMods, []⟩ := by
    simp [normReport, bootKeys]
  have hdiff : diffEvents s.kb.prevMods s.kb.prevKeys ⟨s.kb.prevMods, []⟩ = [⟨u, false, s.kb.prevMods⟩] := by
    simp [diffEvents, modifierEvents_self, releaseEvents, pressEvents, hprev]
  have hmods : (kbKey u false s).kb.prevMods = s.kb.prevMods := by rw [(kbKey_frame u false s).kb]
  unfold execEvKbreport
  dsimp only
  rw [hnorm, hdiff, ← hmods]
  rfl

/-! ## O32 -/

/-- Settles O32: every event is dropped, so only the report is recorded. -/
theorem disabledKeyboardDropsKeyEvents : Obligations.DisabledKeyboardDropsKeyEvents := by
  intro s h
  refine ⟨fun u pressed => kbKey_disabled h u pressed, fun r => ?_⟩
  show execEvKbreport r s = _
  unfold execEvKbreport
  dsimp only
  rw [kbKeys_disabled h]
  rfl

/-! ## O33 -/

/-- A press of an enabled keyboard, its condition as R245 words it. -/
theorem kbKey_pressed {s : State} (h : s.kb.enabled = true) (u : Byte) : kbKey u true s =
    if makeCode s.cfg s.kb.scanCodeSet u = [] then s
    else if (0xE0 ≤ u.toNat ∧ u.toNat ≤ 0xE7) ∨ u = 0x48 ∨
        (s.kb.scanCodeSet = .set3 ∧ ∀ c, (makeCode s.cfg .set3 u).getLast? = some c →
          (s.kb.keyMode[c.toNat]'c.isLt).rep = false) then
      { s with kbLink := { s.kbLink with q := queueAfter s .kb (makeCode s.cfg s.kb.scanCodeSet u) } }
    else
      { s with
        kb := { s.kb with heldKey := some u, timer := .delay }
        kbLink := { s.kbLink with q := queueAfter s .kb (makeCode s.cfg s.kb.scanCodeSet u) } } := by
  rw [kbKey_of_enabled h, if_pos rfl, kbPress_eq]
  refine if_congr Iff.rfl rfl ?_
  have hiff := repeatable_eq_false_iff s.cfg s.kb u s.kb.scanCodeSet
  split_ifs with hrep hno hno
  · rw [hiff.2 hno] at hrep
    cases hrep
  · rfl
  · rfl
  · exact absurd (hiff.1 (Bool.of_not_eq_true hrep)) hno

/-- Settles O33: the make codes by rows, the press, and the report that makes one press. -/
theorem oneKeyPressed : Obligations.OneKeyPressed :=
  ⟨fun _ _ _ => ⟨makeCode_of_no_row, fun _ _ _ ht hr hb => makeCode_of_row (scanRow_first ht hr hb)⟩,
    fun _ u h => ⟨kbKey_pressed h u, fun reserved => execEvKbreport_one_new reserved⟩⟩

/-! ## O34 -/

/-- A release of an enabled keyboard, its condition as R247 words it. -/
theorem kbKey_released {s : State} (h : s.kb.enabled = true) (u : Byte) : kbKey u false s = { s with
    kb := { s.kb with
      heldKey := if s.kb.heldKey = some u then none else s.kb.heldKey
      timer := if s.kb.heldKey = some u then .off else s.kb.timer }
    kbLink := { s.kbLink with q :=
      (if s.kb.scanCodeSet = .set3 ∧ ∀ c, (makeCode s.cfg .set3 u).getLast? = some c →
          (s.kb.keyMode[c.toNat]'c.isLt).brk = false then s.kbLink.q
      else queueAfter s .kb (breakCode s.cfg s.kb.scanCodeSet u)) } } := by
  have hqueue : queueAfter s .kb (if sendsBreak s.cfg s.kb u s.kb.scanCodeSet then
        breakCode s.cfg s.kb.scanCodeSet u else []) =
      if s.kb.scanCodeSet = .set3 ∧ ∀ c, (makeCode s.cfg .set3 u).getLast? = some c →
          (s.kb.keyMode[c.toNat]'c.isLt).brk = false then s.kbLink.q
      else queueAfter s .kb (breakCode s.cfg s.kb.scanCodeSet u) := by
    have hiff := sendsBreak_eq_false_iff s.cfg s.kb u s.kb.scanCodeSet
    split_ifs with hsend hno hno
    · rw [hiff.2 hno] at hsend
      cases hsend
    · rfl
    · exact queueAfter_nil s .kb
    · exact absurd (hiff.1 (Bool.of_not_eq_true hsend)) hno
  rw [kbKey_of_enabled h, if_neg Bool.false_ne_true, kbRelease_eq, hqueue]
  split_ifs <;> rfl

/-- Settles O34: the break codes by rows, the release, and the report that makes one release. -/
theorem oneKeyReleased : Obligations.OneKeyReleased :=
  ⟨fun cfg set _ => ⟨breakCode_pause cfg set, breakCode_of_no_row,
      fun _ _ _ ht hr hb hu => breakCode_of_row hu (scanRow_first ht hr hb)⟩,
    fun _ u h => ⟨kbKey_released h u, fun reserved hprev _ => execEvKbreport_only_gone reserved hprev⟩⟩

/-! ## O35 -/

/-- What a tick repeats: the make code of the held key in the set active now, nothing while disabled (R252). -/
def repeated (cfg : Config) (kb : KbState) : Packet :=
  match kb.heldKey with
  | some u => if kb.enabled then makeCode cfg kb.scanCodeSet u else []
  | none => []

theorem execEvKbtick_of_armed {s : State} (h : s.kb.timer ≠ .off) : execEvKbtick s = .next { s with
    kb := { s.kb with timer := .repeating }
    kbLink := { s.kbLink with q := queueAfter s .kb (repeated s.cfg s.kb) } } := by
  rw [execEvKbtick, if_neg h, repeated]
  cases s.kb.heldKey with
  | none => rw [queueAfter_nil]; rfl
  | some u =>
    dsimp only
    split_ifs
    · rw [send_kb_eq]; rfl
    · rw [queueAfter_nil]; rfl

/-- Settles O35: with a held key, what is repeated is its code or, while disabled, nothing. -/
theorem kbTickRepeatsTheHeldKey : Obligations.KbTickRepeatsTheHeldKey := by
  intro s u harmed hheld
  have hqueue : queueAfter s .kb (repeated s.cfg s.kb) =
      if s.kb.enabled then queueAfter s .kb (makeCode s.cfg s.kb.scanCodeSet u) else s.kbLink.q := by
    rw [repeated, hheld]
    dsimp only
    split_ifs
    · rfl
    · exact queueAfter_nil s .kb
  rw [← hqueue]
  exact execEvKbtick_of_armed harmed

/-! ## O36 -/

/-- The report that takes away the only key, which is the held one. -/
theorem execEvKbreport_held_gone {t : State} {mods u : Byte} (reserved : Byte) (henabled : t.kb.enabled = true)
    (hmods : t.kb.prevMods = mods) (hprev : t.kb.prevKeys = [u]) (hheld : t.kb.heldKey = some u) :
    ∃ w, execEvKbreport (.boot mods reserved 0 0 0 0 0 0) t = .next w ∧ w.kb.heldKey = none ∧ w.kb.timer = .off := by
  subst hmods
  refine ⟨_, execEvKbreport_only_gone reserved hprev, ?_⟩
  dsimp only
  rw [kbKey_released henabled]
  simp only [hheld, if_true, and_self]

/-- Settles O36: the second report releases the key that the first one left held. -/
theorem releaseCancelsTheRepeat : Obligations.ReleaseCancelsTheRepeat := by
  intro s reserved u henabled hprev hu
  have hframe := (kbKey_frame u true s).kb
  have hmods : (kbKey u true s).kb.prevMods = s.kb.prevMods := by rw [hframe]
  have henabled' : (kbKey u true s).kb.enabled = true := by rw [hframe, henabled]
  exact ⟨_, execEvKbreport_one_new reserved hprev hu, execEvKbreport_held_gone reserved henabled' hmods rfl⟩

end Sys2Proof.Machine
end

section
/-! Keyboard reports (46_hid_keyboard_differencer.md R331, R334, R335): the normal form, the order of the key events, and
O28, O29 and O31. -/

namespace Sys2Proof.Machine

/-! ## O28 -/

/-- The first slots of the keys of a boot report ascend in the order of the keys. -/
theorem bootKeys_pairwise_idxOf (slots : List Byte) :
    (bootKeys slots).Pairwise (fun a b => slots.idxOf a < slots.idxOf b) := by
  induction slots using List.reverseRecOn with
  | nil => exact List.Pairwise.nil
  | append_singleton slots k ih =>
    have hslot : ∀ {u}, u ∈ bootKeys slots → u ∈ slots := fun hu => (mem_bootKeys.1 hu).2
    have hold : (bootKeys slots).Pairwise (fun a b => (slots ++ [k]).idxOf a < (slots ++ [k]).idxOf b) :=
      ih.imp_of_mem fun ha hb hlt => by
        rwa [List.idxOf_append_of_mem (hslot ha), List.idxOf_append_of_mem (hslot hb)]
    rw [bootKeys_concat]
    split_ifs with hnew
    · refine List.pairwise_append.2 ⟨hold, List.pairwise_singleton _ _, fun a ha b hb => ?_⟩
      have hk : k ∉ slots := fun hmem => hnew.2 (mem_bootKeys.2 ⟨hnew.1, hmem⟩)
      rw [List.mem_singleton.1 hb, List.idxOf_append_of_mem (hslot ha), List.idxOf_append_of_notMem hk]
      exact Nat.lt_add_right _ (List.idxOf_lt_length_of_mem (hslot ha))
    · exact hold

/-- The bits of a number folded from its bits, lowest first. -/
theorem testBit_foldr_bits (l : List Bool) (i : Nat) :
    (l.foldr (fun (b : Bool) m => b.toNat + 2 * m) 0).testBit i = l.getD i false := by
  induction l generalizing i with
  | nil => simp
  | cons b l ih =>
    rw [List.foldr_cons, Nat.add_comm]
    cases i with
    | zero => cases b <;> simp [Nat.testBit_zero]
    | succ i =>
      rw [List.getD_cons_succ, ← ih, Nat.testBit_succ]
      have hb := b.toNat_lt
      congr 1
      omega

theorem nkroMods_bits_getLsbD (modAt : Vector BitAt 8) (usageAt : List (Byte × BitAt)) (r : List Byte) {i : Nat}
    (hi : i < 8) : (nkroMods (.bits modAt usageAt) r).getLsbD i = reportBit r modAt[i] := by
  rw [nkroMods, BitVec.getLsbD_ofNat, testBit_foldr_bits]
  simp [hi]

theorem nkroPressed_standard_iff (m : Byte) (rest : List Byte) (u : Nat) :
    nkroPressed .standard (m :: rest) u = true ↔ ∃ row, rest[u / 8]? = some row ∧ row.getLsbD (u % 8) = true := by
  rw [nkroPressed, reportBit_iff, Nat.add_comm, List.getElem?_cons_succ]

theorem nkroPressed_bits_iff (modAt : Vector BitAt 8) (usageAt : List (Byte × BitAt)) (r : List Byte) (u : Byte) :
    nkroPressed (.bits modAt usageAt) r u.toNat = true ↔
      ∃ p row, (u, p) ∈ usageAt ∧ r[p.byte]? = some row ∧ row.getLsbD p.bit = true := by
  simp only [nkroPressed, List.any_eq_true, Bool.and_eq_true, beq_iff_eq, reportBit_iff, Prod.exists]
  constructor
  · rintro ⟨v, p, hmem, hv, row, hrow⟩
    exact ⟨p, row, BitVec.eq_of_toNat_eq hv ▸ hmem, hrow⟩
  · rintro ⟨p, row, hmem, hrow⟩
    exact ⟨u, p, hmem, rfl, row, hrow⟩

/-- Settles O28: boot reports by the slots, roll-over reports by the three forms of the layout. -/
theorem reportNormalForm : Obligations.ReportNormalForm := by
  constructor
  · intro layout m r k1 k2 k3 k4 k5 k6
    exact ⟨rfl, fun u => mem_bootKeys, bootKeys_pairwise_idxOf _⟩
  · intro layout m rest
    refine ⟨nkroKeys_ascending layout _, ?_⟩
    cases layout with
    | standard => exact ⟨rfl, fun u => mem_nkroKeys.trans (and_congr_right' (nkroPressed_standard_iff m rest _))⟩
    | bits modAt usageAt =>
      refine ⟨fun i hi => ?_, fun u => mem_nkroKeys.trans (and_congr_right' (nkroPressed_bits_iff modAt usageAt _ u))⟩
      show (nkroMods _ _).getLsbD i = true ↔ _
      rw [nkroMods_bits_getLsbD modAt usageAt _ hi]
      exact reportBit_iff _ _
    | other n => exact ⟨rfl, fun u => mem_nkroKeys⟩

/-! ## O29 -/

theorem kbKeys_queue (es : List KeyEvent) (s : State) : ∃ more, (kbKeys es s).kbLink.q = s.kbLink.q ++ more := by
  refine kbKeys_induction (P := fun t => ∃ more, t.kbLink.q = s.kbLink.q ++ more) ?_ es s ⟨[], by simp⟩
  rintro u pressed t ⟨more, hmore⟩
  obtain ⟨p, hlink⟩ := kbKey_queue u pressed t
  rw [hlink]
  rcases queueAfter_cases t .kb p with hq | ⟨-, -, hq⟩ <;> rw [hq, link_kb, hmore]
  · exact ⟨more, rfl⟩
  · exact ⟨more ++ [p], List.append_assoc ..⟩

/-- Settles O29: the frame of the key events, and the record of the report. -/
theorem kbReportReplacesThePreviousReport : Obligations.KbReportReplacesThePreviousReport := by
  intro s r
  have hframe := kbKeys_frame (diffEvents s.kb.prevMods s.kb.prevKeys (normReport s.cfg.nkroLayout r)) s
  obtain ⟨more, hmore⟩ := kbKeys_queue (diffEvents s.kb.prevMods s.kb.prevKeys (normReport s.cfg.nkroLayout r)) s
  refine ⟨_, more, rfl, hmore, ?_⟩
  rw [← hmore, hframe.rest, hframe.link, hframe.kb]
  rfl

/-! ## O31 -/

theorem modUsage_toNat {i : Nat} (h : i < 8) : (modUsage i).toNat = 0xE0 + i := by
  rw [modUsage, BitVec.toNat_ofNat]
  omega

theorem modifierEvents_ascending (prevMods mods : Byte) :
    (modifierEvents prevMods mods).Pairwise (fun a b : KeyEvent => a.usage.toNat < b.usage.toNat) := by
  unfold modifierEvents
  refine List.pairwise_map.2 ((List.pairwise_lt_range.filter _).imp_of_mem fun ha hb hlt => ?_)
  have hlt8 : ∀ {i}, i ∈ (List.range 8).filter (fun i => mods.getLsbD i ≠ prevMods.getLsbD i) → i < 8 :=
    fun hi => List.mem_range.1 (List.mem_of_mem_filter hi)
  simp only [modUsage_toNat (hlt8 ha), modUsage_toNat (hlt8 hb)]
  omega

/-- The modifier events are the changed bits, each pressed as the new bit. -/
theorem exists_modifierEvents_iff (prevMods mods : Byte) (u : Byte) (pressed : Bool) :
    (∃ e ∈ modifierEvents prevMods mods, e.usage = u ∧ e.pressed = pressed) ↔
      ∃ i, i < 8 ∧ u.toNat = 0xE0 + i ∧ mods.getLsbD i = pressed ∧ prevMods.getLsbD i = !pressed := by
  have hchange : ∀ a b c : Bool, (a ≠ b ∧ a = c) ↔ (a = c ∧ b = !c) := by decide
  simp only [modifierEvents, List.mem_map, List.mem_filter, List.mem_range, decide_eq_true_eq]
  constructor
  · rintro ⟨e, ⟨i, ⟨hi, hne⟩, rfl⟩, rfl, rfl⟩
    exact ⟨i, hi, modUsage_toNat hi, (hchange _ _ _).1 ⟨hne, rfl⟩⟩
  · rintro ⟨i, hi, hu, hbits⟩
    obtain ⟨hne, hnew⟩ := (hchange _ _ _).2 hbits
    exact ⟨_, ⟨i, ⟨hi, hne⟩, rfl⟩, BitVec.eq_of_toNat_eq ((modUsage_toNat hi).trans hu.symm), hnew⟩

theorem releaseEvents_usages (prevKeys keys : List Byte) (mods : Byte) :
    (releaseEvents prevKeys keys mods).map (·.usage) = prevKeys.filter (fun u => u ∉ keys) := by
  rw [releaseEvents, List.map_map]
  exact List.map_id _

theorem pressEvents_usages (prevKeys keys : List Byte) (mods : Byte) :
    (pressEvents prevKeys keys mods).map (·.usage) = keys.filter (fun u => u ∉ prevKeys) := by
  rw [pressEvents, List.map_map]
  exact List.map_id _

theorem releaseEvents_pressed {prevKeys keys : List Byte} {mods : Byte} :
    ∀ e ∈ releaseEvents prevKeys keys mods, e.pressed = false := List.forall_mem_map.2 fun _ _ => rfl

theorem pressEvents_pressed {prevKeys keys : List Byte} {mods : Byte} :
    ∀ e ∈ pressEvents prevKeys keys mods, e.pressed = true := List.forall_mem_map.2 fun _ _ => rfl

/-- Settles O31: the three lists of `diffEvents`. -/
theorem kbReportRunsItsKeyEventsInOrder : Obligations.KbReportRunsItsKeyEventsInOrder := by
  intro s r
  refine ⟨modifierEvents s.kb.prevMods (normReport s.cfg.nkroLayout r).mods,
    releaseEvents s.kb.prevKeys (normReport s.cfg.nkroLayout r).keys (normReport s.cfg.nkroLayout r).mods,
    pressEvents s.kb.prevKeys (normReport s.cfg.nkroLayout r).keys (normReport s.cfg.nkroLayout r).mods, rfl,
    modifierEvents_ascending _ _, exists_modifierEvents_iff _ _, releaseEvents_pressed, releaseEvents_usages _ _ _,
    pressEvents_pressed, pressEvents_usages _ _ _⟩

end Sys2Proof.Machine
end

section
/-! Mouse reports, movement packets and the streaming tick (45_mouse_streaming.md, 47_hid_mouse_differencer.md): O45 to
O50. -/

namespace Sys2Proof.Machine

/-! ## O45 -/

theorem sat16_eq (v : Int) : sat16 v = max (-32768) (min 32767 v) := clamp_eq (by decide)

/-- Settles O45: each sum is `sat16` of it, each extracted contribution a clamp. -/
theorem msReportAccumulatesWithSaturation : Obligations.MsReportAccumulatesWithSaturation := by
  intro s
  have hclamp : ∀ v : Int, max (-128) (min 127 v) = clamp v (-128) 127 := fun v => (clamp_eq (by decide)).symm
  simp only [← sat16_eq, hclamp]
  exact ⟨fun _ _ _ _ => rfl, fun _ _ _ _ => rfl⟩

/-! ## The bytes of a packet (R305) -/

/-- The first byte by its fields, which do not overlap. -/
theorem byte1_toNat : ∀ (btn : BitVec 5) (p q : Bool),
    (0x08 ||| (btn.setWidth 8 &&& 0x07) ||| (if p then 0x10 else 0x00) ||| (if q then 0x20 else 0x00) : Byte).toNat =
      8 + btn.toNat % 8 + (if p then 16 else 0) + (if q then 32 else 0) := by decide +kernel

theorem msByte1_toNat (x y : Int) (btn : BitVec 5) : (msByte1 x y (btn.setWidth 8)).toNat =
    8 + btn.toNat % 8 + (if x < 0 then 16 else 0) + (if 0 < y then 32 else 0) := by
  rw [msByte1_eq, byte1_toNat]
  simp only [decide_eq_true_eq, gt_iff_lt]

theorem wheel5_byte4_toNat : ∀ (btn : BitVec 5) (z : BitVec 4),
    (z.setWidth 8 ||| (((btn.setWidth 8 >>> 3) &&& 0x03) <<< 4) : Byte).toNat = z.toNat + 16 * (btn.toNat / 8) := by
  decide +kernel

/-- Settles O46: the packets are those of `msPacket`, byte by byte. -/
theorem movementPacketBytes : Obligations.MovementPacketBytes := by
  intro s btn btn5 x y z
  constructor
  · have hlt : (btn.setWidth 5).toNat % 8 = btn.toNat := by
      have := btn.isLt
      rw [BitVec.toNat_setWidth]
      omega
    refine ⟨msByte1 x.toInt y.toInt (btn.setWidth 8), ?_, ?_, ?_⟩
    · rw [(buttons_widened btn).1, msByte1_toNat, hlt]
    · show execMspkt3 btn x y s = _
      rw [execMspkt3, msPacket, low8_toInt x, low8_sub_toInt]
      rfl
    · show execMspkt4Wheel3 btn x y z s = _
      rw [execMspkt4Wheel3, msPacket, low8_toInt x, low8_sub_toInt]
      rfl
  · refine ⟨msByte1 x.toInt y.toInt (btn5.setWidth 8), _, msByte1_toNat _ _ btn5, wheel5_byte4_toNat btn5 z, ?_⟩
    show execMspkt4Wheel5 btn5 x y z s = _
    rw [execMspkt4Wheel5, msPacket, low8_toInt x, low8_sub_toInt, low4_toInt]
    rfl

/-! ## O47 -/

theorem byte1_eq_constant_iff : ∀ (btn : Byte) (p q : Bool),
    0x08 ||| (btn &&& 0x07) ||| (if p then 0x10 else 0x00) ||| (if q then 0x20 else 0x00) = (0x08 : Byte) ↔
      p = false ∧ q = false ∧ btn &&& 0x07 = 0x00 := by decide +kernel

theorem msByte1_eq_constant_iff (x y : Int) (btn : Byte) :
    msByte1 x y btn = 0x08 ↔ 0 ≤ x ∧ y ≤ 0 ∧ btn &&& 0x07 = 0x00 := by
  rw [msByte1_eq, byte1_eq_constant_iff]
  simp only [decide_eq_false_iff_not, not_lt, gt_iff_lt]

theorem ofInt_eq_zero_iff {n : Nat} {v : Int} : BitVec.ofInt n v = 0#n ↔ v % (2 ^ n : Nat) = 0 := by
  rw [← BitVec.toNat_inj, BitVec.toNat_ofInt, BitVec.toNat_ofNat, Nat.zero_mod]
  have hpos : (0 : Int) < (2 ^ n : Nat) := Int.natCast_pos.2 (Nat.two_pow_pos n)
  have := Int.emod_nonneg v hpos.ne'
  omega

theorem low8_eq_zero_iff {v : Int} : low8 v = 0x00 ↔ v % 256 = 0 := ofInt_eq_zero_iff

theorem low4_eq_zero_iff {v : Int} : low4 v = 0#4 ↔ v % 16 = 0 := ofInt_eq_zero_iff

theorem wheel5_byte4_eq_zero_iff : ∀ (z : BitVec 4) (btn : Byte),
    z.setWidth 8 ||| (((btn >>> 3) &&& 0x03) <<< 4) = (0x00 : Byte) ↔ z = 0#4 ∧ btn &&& 0x18 = 0x00 := by decide +kernel

/-- The motion and the common buttons are zero exactly if the first three bytes show none. -/
theorem head_bytes_zero_iff {x y : Int} {btn : Byte} (hx : -128 ≤ x ∧ x ≤ 127) (hy : -128 ≤ y ∧ y ≤ 127) :
    (x = 0 ∧ y = 0 ∧ btn &&& 0x07 = 0x00) ↔
      (msByte1 x y btn = 0x08 ∧ low8 x = 0x00 ∧ low8 (0x100 - y) = 0x00) := by
  rw [msByte1_eq_constant_iff, low8_eq_zero_iff, low8_eq_zero_iff]
  constructor
  · rintro ⟨rfl, rfl, hbtn⟩
    exact ⟨⟨le_rfl, le_rfl, hbtn⟩, by decide, by decide⟩
  · rintro ⟨⟨hx0, hy0, hbtn⟩, hxm, hym⟩
    exact ⟨by omega, by omega, hbtn⟩

/-- Settles O47: the head of the packet, and for the wheel types its tail. -/
theorem allZeroIsAboutThePacketBytes : Obligations.AllZeroIsAboutThePacketBytes := by
  intro x y z btn t hx hx' hy hy' hz hz'
  have hhead := head_bytes_zero_iff (btn := btn) ⟨hx, hx'⟩ ⟨hy, hy'⟩
  cases t with
  | standard =>
    simp only [allZero, msTailZero, msPacket, Bool.and_eq_true, beq_iff_eq, and_true, List.cons.injEq, reduceCtorEq,
      and_false, or_false, ← hhead]
    exact and_assoc
  | wheel3 =>
    have htail : z = 0 ↔ low8 z = 0x00 := by rw [low8_eq_zero_iff]; omega
    simp only [allZero, msTailZero, msPacket, Bool.and_eq_true, beq_iff_eq, and_true, List.cons.injEq, reduceCtorEq,
      and_false, false_or, ← htail]
    tauto
  | wheel5 =>
    have htail : z = 0 ↔ low4 z = 0#4 := by rw [low4_eq_zero_iff]; omega
    simp only [allZero, msTailZero, msPacket, Bool.and_eq_true, beq_iff_eq, and_true, List.cons.injEq, reduceCtorEq,
      and_false, false_or, wheel5_byte4_eq_zero_iff, ← htail]
    tauto

end Sys2Proof.Machine
end

section
/-! The streaming tick (45_mouse_streaming.md R302, R303, R307): O48, O49 and O50. -/

namespace Sys2Proof.Machine

/-! ## O48 -/

theorem execEvMstick_of_streaming {s : State} (h : s.ms.mode = .streaming) : execEvMstick s = .next (msTick s) :=
  if_neg (not_not_intro h)

theorem IntIn.neg_le_pos {a b c d : Int} (hb : b ≤ c) (lo : IntIn a b) (hi : IntIn c d) : lo.val ≤ hi.val :=
  lo.property.2.trans (hb.trans hi.property.1)

/-- Settles O48: the three outcomes of `msTick_eq`, the clamps as minimum and maximum. -/
theorem msTickSendsOrSuppressesOrSkips : Obligations.MsTickSendsOrSuppressesOrSkips := by
  intro s x y z hmode hx hy hz
  have hxy := IntIn.neg_le_pos le_rfl s.cfg.xyMin s.cfg.xyMax
  rw [← clamp_eq hxy] at hx hy
  rw [← clamp_eq (IntIn.neg_le_pos le_rfl s.cfg.zMin s.cfg.zMax)] at hz
  refine (execEvMstick_of_streaming hmode).trans (congrArg Host.Outcome.next ?_)
  rw [msTick_eq]
  simp only [← hx, ← hy, ← hz, Bool.and_eq_true]
  split_ifs <;> rfl

/-! ## O49 -/

/-- The values `x` and `y` that a packet carries: within a signed byte. -/
theorem clamp_xy_range (cfg : Config) (v : Int) : -128 ≤ clamp v cfg.xyMin cfg.xyMax ∧ clamp v cfg.xyMin cfg.xyMax ≤ 127 := by
  have hrange := clamp_range (v := v) (IntIn.neg_le_pos le_rfl cfg.xyMin cfg.xyMax)
  exact ⟨cfg.xyMin.property.1.trans hrange.1, hrange.2.trans cfg.xyMax.property.2⟩

/-- The value `z` that a packet carries: within a signed nibble. -/
theorem clamp_z_range (cfg : Config) (v : Int) : -8 ≤ clamp v cfg.zMin cfg.zMax ∧ clamp v cfg.zMin cfg.zMax ≤ 7 := by
  have hrange := clamp_range (v := v) (IntIn.neg_le_pos le_rfl cfg.zMin cfg.zMax)
  exact ⟨cfg.zMin.property.1.trans hrange.1, hrange.2.trans cfg.zMax.property.2⟩

theorem byte1_sign_flags : ∀ (btn : Byte) (p q : Bool),
    (0x08 ||| (btn &&& 0x07) ||| (if p then 0x10 else 0x00) ||| (if q then 0x20 else 0x00) : Byte).getLsbD 4 = p ∧
    (0x08 ||| (btn &&& 0x07) ||| (if p then 0x10 else 0x00) ||| (if q then 0x20 else 0x00) : Byte).getLsbD 5 = q := by
  decide +kernel

theorem msByte1_sign_flags (x y : Int) (btn : Byte) :
    (msByte1 x y btn).getLsbD 4 = decide (x < 0) ∧ (msByte1 x y btn).getLsbD 5 = decide (0 < y) := by
  rw [msByte1_eq]
  exact byte1_sign_flags _ _ _

theorem low8_toNat (v : Int) : ((low8 v).toNat : Int) = v % 256 := by
  rw [low8, BitVec.toNat_ofInt]
  exact Int.toNat_of_nonneg (Int.emod_nonneg v (by decide))

/-- The nine-bit X: byte 2 with its sign flag. -/
theorem nine_bit_x {x y : Int} (btn : Byte) (hx : -128 ≤ x ∧ x ≤ 127) :
    ((low8 x).toNat - (if (msByte1 x y btn).getLsbD 4 then 256 else 0) : Int) = x := by
  rw [low8_toNat, (msByte1_sign_flags x y btn).1]
  simp only [decide_eq_true_eq]
  split_ifs <;> omega

/-- The nine-bit Y: byte 3 with its sign flag, inverted. -/
theorem nine_bit_y {x y : Int} (btn : Byte) (hy : -128 ≤ y ∧ y ≤ 127) :
    ((low8 (0x100 - y)).toNat - (if (msByte1 x y btn).getLsbD 5 then 256 else 0) : Int) = -y := by
  rw [low8_toNat, (msByte1_sign_flags x y btn).2]
  simp only [decide_eq_true_eq]
  split_ifs <;> omega

theorem toInt_low8 {v : Int} (h : -128 ≤ v ∧ v ≤ 127) : (low8 v).toInt = v := by
  rw [low8, BitVec.toInt_ofInt]
  exact Int.bmod_eq_of_le (by omega) (by omega)

theorem toInt_low4 {v : Int} (h : -8 ≤ v ∧ v ≤ 7) : (low4 v).toInt = v := by
  rw [low4, BitVec.toInt_ofInt]
  exact Int.bmod_eq_of_le (by omega) (by omega)

theorem wheel5_byte4_nibble : ∀ (z : BitVec 4) (btn : Byte),
    (z.setWidth 8 ||| (((btn >>> 3) &&& 0x03) <<< 4) : Byte).extractLsb' 0 4 = z := by decide +kernel

/-- The bytes of a packet carry the deltas it was made from. -/
theorem msPacket_carries {x y z : Int} (btn : Byte) (t : DeviceType) (hx : -128 ≤ x ∧ x ≤ 127)
    (hy : -128 ≤ y ∧ y ≤ 127) (hz : -8 ≤ z ∧ z ≤ 7) :
    ∃ (b1 b2 b3 : Byte) (tail : List Byte), msPacket x y z btn t = b1 :: b2 :: b3 :: tail ∧
      (b2.toNat - (if b1.getLsbD 4 then 256 else 0) : Int) = x ∧
      (b3.toNat - (if b1.getLsbD 5 then 256 else 0) : Int) = -y ∧
      (match t with
        | .standard => tail = []
        | .wheel3 => ∃ b4 : Byte, tail = [b4] ∧ b4.toInt = z
        | .wheel5 => ∃ b4 : Byte, tail = [b4] ∧ (b4.extractLsb' 0 4).toInt = z) := by
  cases t with
  | standard => exact ⟨_, _, _, [], rfl, nine_bit_x btn hx, nine_bit_y btn hy, rfl⟩
  | wheel3 =>
    exact ⟨_, _, _, _, rfl, nine_bit_x btn hx, nine_bit_y btn hy, _, rfl, toInt_low8 ⟨by omega, by omega⟩⟩
  | wheel5 =>
    exact ⟨_, _, _, _, rfl, nine_bit_x btn hx, nine_bit_y btn hy, _, rfl, by rw [wheel5_byte4_nibble, toInt_low4 hz]⟩

/-- Settles O49: a tick that sends drains the clamped deltas, and its packet carries them. -/
theorem msTickCarriesWhatItDrains : Obligations.MsTickCarriesWhatItDrains := by
  intro s hmode
  refine ⟨_, execEvMstick_of_streaming hmode, ?_⟩
  rw [msTick_eq]
  dsimp only
  split_ifs with hquiet hstandard hroom
  · exact .inl ⟨rfl, rfl, rfl, fun hne => absurd hstandard hne⟩
  · exact .inl ⟨rfl, rfl, rfl, fun _ => rfl⟩
  · obtain ⟨b1, b2, b3, tail, hpacket, hx, hy, htail⟩ := msPacket_carries s.ms.acc.buttons s.ms.deviceType
      (clamp_xy_range s.cfg s.ms.acc.dx) (clamp_xy_range s.cfg s.ms.acc.dy) (clamp_z_range s.cfg s.ms.acc.dwheel)
    refine .inr ⟨b1, b2, b3, tail, ?_, ?_, ?_, ?_⟩
    · rw [hpacket]
    · rw [hx]; ring
    · rw [hy]; ring
    · revert htail
      cases s.ms.deviceType with
      | standard => exact id
      | wheel3 | wheel5 => exact fun ⟨b4, htail, hz⟩ => ⟨b4, htail, by rw [hz]; ring⟩
  · exact .inl ⟨rfl, rfl, rfl, fun _ => rfl⟩

/-! ## O50 -/

theorem allZero_at_rest (t : DeviceType) : allZero 0 0 0 0x00 t = true := by cases t <;> rfl

theorem msPacket_at_rest (t : DeviceType) :
    msPacket 0 0 0 0x00 t = if t = .standard then [0x08, 0x00, 0x00] else [0x08, 0x00, 0x00, 0x00] := by
  cases t <;> decide

/-- A tick with nothing to carry: suppressed once stationary, else the all-zero packet or, the queue full, nothing. -/
theorem msTick_at_rest {s : State} (h : s.ms.acc = ⟨0, 0, 0, 0x00⟩) : msTick s =
    if s.ms.stationary then s
    else if s.msLink.q.length < s.cfg.qcap.val then
      { s with
        ms := { s.ms with stationary := true }
        msLink := { s.msLink with q := s.msLink.q ++
          [if s.ms.deviceType = .standard then [0x08, 0x00, 0x00] else [0x08, 0x00, 0x00, 0x00]] } }
    else s := by
  have hxy : clamp 0 s.cfg.xyMin s.cfg.xyMax = 0 := clamp_zero s.cfg.xyMin.property.2 s.cfg.xyMax.property.1
  have hz : clamp 0 s.cfg.zMin s.cfg.zMax = 0 := clamp_zero s.cfg.zMin.property.2 s.cfg.zMax.property.1
  rw [msTick_eq]
  simp only [h, hxy, hz, allZero_at_rest, msPacket_at_rest, Bool.true_and, Int.sub_zero]
  split_ifs <;> first | rfl | rw [← h]

theorem execEvMstick_suppressed {s : State} (hmode : s.ms.mode = .streaming) (hacc : s.ms.acc = ⟨0, 0, 0, 0x00⟩)
    (hstationary : s.ms.stationary = true) : execEvMstick s = .next s := by
  rw [execEvMstick_of_streaming hmode, msTick_at_rest hacc, if_pos hstationary]

/-- Settles O50: the first tick sends and sets `stationary`, with which the second is suppressed. -/
theorem cleanStopIsSentOnce : Obligations.CleanStopIsSentOnce := by
  intro s hmode hmoving hacc hroom
  have htick := msTick_at_rest hacc
  rw [hmoving, if_neg Bool.false_ne_true, if_pos hroom] at htick
  exact ⟨_, (execEvMstick_of_streaming hmode).trans (congrArg Host.Outcome.next htick), rfl, rfl, rfl,
    execEvMstick_suppressed hmode hacc rfl⟩

end Sys2Proof.Machine
end

section
/-! The transition tables of the two pending states (42_keyboard_commands.md R220, 44_mouse_commands.md R285), and O25, O27
and O42. -/

namespace Sys2Proof.Machine

/-! ## The keyboard's table, row by row -/

/-- What a command byte makes the keyboard await, under the active set (R220). -/
def kbAwaits (set : ScanSet) (b : Byte) : KbPending :=
  if b = 0xED then .led
  else if b = 0xF3 then .typematic
  else if b = 0xF0 then .scanSet
  else if b = 0xFB ∧ set = .set3 then .keyMode .makeTypematic
  else if b = 0xFC ∧ set = .set3 then .keyMode .makeBreak
  else if b = 0xFD ∧ set = .set3 then .keyMode .make
  else .idle

/-- The keyboard's answer to a command byte other than `0xFF`, under the policy `ack` (R220). -/
def kbAnswer (l : Link) (b : Byte) : Packet :=
  if b = 0xFE then l.lastByteSent.toList
  else if b = 0xEE then [0xEE]
  else if b = 0xF2 then [0xAB, 0x83]
  else [0xFA]

/-- The row of a byte other than `0xFF` as a command. -/
def KbRow (s t : State) (b : Byte) : Prop :=
  t.kb.pending = kbAwaits s.kb.scanCodeSet b ∧ t.kbLink = { s.kbLink with q := queueAfter s .kb (kbAnswer s.kbLink b) }

/-- A byte with no row of its own awaits nothing and is acknowledged. -/
theorem kbNoRow_row : ∀ b : Byte, kbNoRow b = true → b ≠ 0xFF ∧ b ≠ 0xFE ∧ b ≠ 0xEE ∧ b ≠ 0xF2 ∧
    ∀ set ∈ [ScanSet.set1, .set2, .set3], kbAwaits set b = .idle := by decide +kernel

theorem kbUnknown_row {s : State} (hp : s.kb.pending = .idle) (hack : s.cfg.unknownPolicy = .ack) {b : Byte}
    (hb : kbNoRow b = true) : ∃ t, exec (.kbUnknown b) s = .next t ∧ KbRow s t b := by
  obtain ⟨-, hFE, hEE, hF2, hawaits⟩ := kbNoRow_row b hb
  have hset : s.kb.scanCodeSet ∈ [ScanSet.set1, .set2, .set3] := by cases s.kb.scanCodeSet <;> decide
  refine ⟨_, kbUnknownAnswersByPolicy s b, ?_, ?_⟩
  · rw [hawaits _ hset]
    exact hp
  · rw [kbAnswer, if_neg hFE, if_neg hEE, if_neg hF2, hack]

/-- A set-3 command that writes the key modes awaits nothing (R210 to R213). -/
theorem allKeyModes_row {s : State} (hp : s.kb.pending = .idle) {i : Instr} {m : KeyMode} {b : Byte}
    (hi : (i, m) ∈ [(Instr.kbAlltypematic, (⟨false, true⟩ : KeyMode)), (.kbAllmakebreak, ⟨true, false⟩),
      (.kbAllmake, ⟨false, false⟩), (.kbAlltmb, ⟨true, true⟩)])
    (hb : kbAwaits s.kb.scanCodeSet b = .idle) (hans : kbAnswer s.kbLink b = [0xFA]) :
    ∃ t, exec i s = .next t ∧ KbRow s t b := by
  refine ⟨_, allKeyModeCommands s i m hi, ?_, by rw [hans]⟩
  rw [hb]
  dsimp only
  split_ifs <;> exact hp

/-- A set-3 command for one key awaits its code in set 3 only (R214 to R216). -/
theorem oneKeyMode_row {s : State} (hp : s.kb.pending = .idle) {i : Instr} {m : KeySel} {b : Byte}
    (hi : (i, m) ∈ [(Instr.kbKeytypematic, KeySel.makeTypematic), (.kbKeymakebreak, .makeBreak), (.kbKeymake, .make)])
    (hb : kbAwaits s.kb.scanCodeSet b = if s.kb.scanCodeSet = .set3 then .keyMode m else .idle)
    (hans : kbAnswer s.kbLink b = [0xFA]) : ∃ t, exec i s = .next t ∧ KbRow s t b := by
  refine ⟨_, oneKeyModeCommands s i m hi, ?_, by rw [hans]⟩
  rw [hb]
  dsimp only
  split_ifs
  · rfl
  · exact hp

/-- The commands that await nothing, whatever the set. -/
theorem kbAwaits_idle : ∀ set : ScanSet, ∀ b ∈ [0xF7, 0xF8, 0xF9, 0xFA, 0xF6, 0xF5, 0xF4, 0xF2, 0xEE, 0xFE],
    kbAwaits set b = .idle := by
  intro set
  cases set <;> decide

/-- The commands that await a code in set 3. -/
theorem kbAwaits_oneKey (set : ScanSet) :
    kbAwaits set 0xFB = (if set = .set3 then .keyMode .makeTypematic else .idle) ∧
    kbAwaits set 0xFC = (if set = .set3 then .keyMode .makeBreak else .idle) ∧
    kbAwaits set 0xFD = (if set = .set3 then .keyMode .make else .idle) := by
  cases set <;> decide

/-- Every command byte but `0xFF` has its row. -/
theorem kbCommand_row {s : State} (hp : s.kb.pending = .idle) (hack : s.cfg.unknownPolicy = .ack) {b : Byte}
    (hb : b ≠ 0xFF) : ∃ t, exec (decodeKbCommand b) s = .next t ∧ KbRow s t b := by
  obtain ⟨hwf, hadmitted, hword⟩ := decodeKbCommand_reads .idle b
  have hkb : isKbByte (decodeKbCommand b) = true := isKbByte_decode .idle b
  obtain ⟨hFB, hFC, hFD⟩ := kbAwaits_oneKey s.kb.scanCodeSet
  have hidle := kbAwaits_idle s.kb.scanCodeSet
  obtain ⟨hecho, hreadid, henable⟩ := kbEchoReadIdAndEnable s
  obtain ⟨hsetleds, hsettypematic, hsetscanset⟩ := kbParameterCommandsAwaitTheirByte s
  cases hi : decodeKbCommand b <;> rw [hi] at hwf hadmitted hword hkb <;>
    simp only [isKbByte, Bool.false_eq_true] at hkb <;> cases hword
  case kbReset => exact absurd rfl hb
  case kbResend =>
    exact ⟨_, (execKbResend_eq s).trans (next_send_kb _ rfl rfl), hp.trans (hidle 0xFE (by decide)).symm, rfl⟩
  case kbEcho => exact ⟨_, hecho, hp.trans (hidle 0xEE (by decide)).symm, rfl⟩
  case kbReadid => exact ⟨_, hreadid, hp.trans (hidle 0xF2 (by decide)).symm, rfl⟩
  case kbEnable => exact ⟨_, henable, hp.trans (hidle 0xF4 (by decide)).symm, rfl⟩
  case kbDisable => exact ⟨_, kbDisableRestoresTypematicAndLeds s, hp.trans (hidle 0xF5 (by decide)).symm, rfl⟩
  case kbSetdefaults => exact ⟨_, kbSetDefaultsKeepsKeyModesAndQueue s, hp.trans (hidle 0xF6 (by decide)).symm, rfl⟩
  case kbSetleds => exact ⟨_, hsetleds, rfl, rfl⟩
  case kbSettypematic => exact ⟨_, hsettypematic, rfl, rfl⟩
  case kbSetscanset => exact ⟨_, hsetscanset, rfl, rfl⟩
  case kbAlltypematic => exact allKeyModes_row hp (m := ⟨false, true⟩) (by decide) (hidle 0xF7 (by decide)) rfl
  case kbAllmakebreak => exact allKeyModes_row hp (m := ⟨true, false⟩) (by decide) (hidle 0xF8 (by decide)) rfl
  case kbAllmake => exact allKeyModes_row hp (m := ⟨false, false⟩) (by decide) (hidle 0xF9 (by decide)) rfl
  case kbAlltmb => exact allKeyModes_row hp (m := ⟨true, true⟩) (by decide) (hidle 0xFA (by decide)) rfl
  case kbKeytypematic => exact oneKeyMode_row hp (m := .makeTypematic) (by decide) hFB rfl
  case kbKeymakebreak => exact oneKeyMode_row hp (m := .makeBreak) (by decide) hFC rfl
  case kbKeymake => exact oneKeyMode_row hp (m := .make) (by decide) hFD rfl
  case kbUnknown => exact kbUnknown_row hp hack hwf
  all_goals cases hadmitted

/-- A scan-set parameter (R205) awaits nothing after it; its answer is an ACK, or for 0 the number of the set; the repeat
goes on. -/
theorem kbPScanset_row (s : State) (b : Byte) : ∃ t, exec (.kbPScanset b) s = .next t ∧ t.kb.pending = .idle ∧
    t.kbLink = { s.kbLink with q := queueAfter s .kb (if b = 0x00 then [scanSetNumber s.kb.scanCodeSet] else [0xFA]) } ∧
    t.kb.timer = s.kb.timer ∧ t.kb.heldKey = s.kb.heldKey := by
  by_cases h0 : b = 0x00
  · subst h0
    exact ⟨_, execKbPScanset_zero s, rfl, rfl, rfl, rfl⟩
  rw [if_neg h0]
  by_cases h1 : b = 0x01
  · subst h1
    exact ⟨_, execKbPScanset_one s, rfl, rfl, rfl, rfl⟩
  by_cases h3 : b = 0x03
  · subst h3
    exact ⟨_, execKbPScanset_three s, rfl, rfl, rfl, rfl⟩
  exact ⟨_, execKbPScanset_other h0 h1 h3 s, rfl, rfl, rfl, rfl⟩

/-- Every parameter byte awaits nothing after it (R220). -/
theorem kbParam_row {s : State} (hp : s.kb.pending ≠ .idle) (b : Byte) :
    ∃ t, exec (decodeKbByte s.kb.pending b) s = .next t ∧ t.kb.pending = .idle ∧
      t.kbLink = { s.kbLink with q := (queueAfter s .kb
        (if s.kb.pending = .scanSet ∧ b = 0x00 then [scanSetNumber s.kb.scanCodeSet] else [0xFA])) } := by
  cases hk : s.kb.pending with
  | idle => exact absurd hk hp
  | led => exact ⟨_, kbLedParameterIsStoredWhole s b, rfl, rfl⟩
  | typematic => exact ⟨_, kbTypematicParameterSelectsRateAndDelay.2 s _ _ _, rfl, rfl⟩
  | scanSet =>
    obtain ⟨t, hexec, hpending, hlink, -⟩ := kbPScanset_row s b
    exact ⟨t, hexec, hpending, by rw [hlink]; simp only [true_and]⟩
  | keyMode m =>
    obtain ⟨modes, hexec, -⟩ := keyModeParameterWritesOneEntry s m b
    exact ⟨_, hexec, rfl, rfl⟩

/-! ## O25 -/

/-- Settles O25: `0xFF` as a command, every other command, every parameter. -/
theorem kbPendingTransitionTable : Obligations.KbPendingTransitionTable := by
  intro s b hack
  rw [exec_evRxframe_kb (decodeFrame_encodeFrame b)]
  by_cases hp : s.kb.pending = .idle
  · rw [hp]
    by_cases hb : b = 0xFF
    · subst hb
      exact ⟨_, kbResetRestoresEveryDefault s, rfl, rfl⟩
    · obtain ⟨t, hexec, hpending, hlink⟩ := kbCommand_row hp hack hb
      refine ⟨t, hexec, hpending, hlink.trans ?_⟩
      simp only [true_and, hb, if_false, reduceCtorEq, false_and] <;> rfl
  · obtain ⟨t, hexec, hpending, hlink⟩ := kbParam_row hp b
    refine ⟨t, hexec, by rw [hpending, if_pos hp], hlink.trans ?_⟩
    simp only [hp, false_and, if_false] <;> rfl

/-! ## The mouse's table -/

/-- The row of a command byte other than `0xFF` (R285). -/
def MsRow (s t : State) (b : Byte) : Prop :=
  t.ms.pending = (if b = 0xF3 then .rate else .idle) ∧
  t.ms.mode = (if b = 0xF6 ∨ b = 0xF5 ∨ b = 0xEA then .idle else if b = 0xF4 then .streaming else s.ms.mode) ∧
  t.msLink = { s.msLink with q := queueAfter s .ms (
    if b = 0xF2 then
      [0xFA, match s.ms.deviceType with | .standard => 0x00 | .wheel3 => 0x03 | .wheel5 => s.cfg.msIdWheel5]
    else if b = 0xE9 then [0xFA, if s.ms.mode = .streaming then 0x20 else 0x00, 0x02, s.ms.sampleRate]
    else [0xFA]) }

theorem msNoRow_ne : ∀ b : Byte, msNoRow b = true →
    b ≠ 0xF3 ∧ (¬ (b = 0xF6 ∨ b = 0xF5 ∨ b = 0xEA)) ∧ b ≠ 0xF4 ∧ b ≠ 0xF2 ∧ b ≠ 0xE9 := by decide +kernel

theorem msUnknown_row {s : State} (hp : s.ms.pending = .idle) {b : Byte} (hb : msNoRow b = true) :
    ∃ t, exec (.msUnknown b) s = .next t ∧ MsRow s t b := by
  obtain ⟨hF3, hidle, hF4, hF2, hE9⟩ := msNoRow_ne b hb
  obtain ⟨-, -, hunknown⟩ := msQueriesAndUnknownOnlyReply s b
  refine ⟨_, hunknown, ?_, ?_, ?_⟩
  · rw [if_neg hF3]
    exact hp
  · rw [if_neg hidle, if_neg hF4]
  · rw [if_neg hF2, if_neg hE9]

/-- Every command byte but `0xFF` has its row. -/
theorem msCommand_row {s : State} (hp : s.ms.pending = .idle) {b : Byte} (hb : b ≠ 0xFF) :
    ∃ t, exec (decodeMsCommand b) s = .next t ∧ MsRow s t b := by
  obtain ⟨hwf, hadmitted, hword⟩ := decodeMsCommand_reads .idle b
  have hms : isMsByte (decodeMsCommand b) = true := isMsByte_decode .idle b
  obtain ⟨hdisable, hsetstream, henable, hsetrate⟩ := msModeAndRateCommandsWriteOneRegister s
  obtain ⟨hgetid, hstatus, -⟩ := msQueriesAndUnknownOnlyReply s b
  cases hi : decodeMsCommand b <;> rw [hi] at hwf hadmitted hword hms <;>
    simp only [isMsByte, Bool.false_eq_true] at hms <;> cases hword
  case msReset => exact absurd rfl hb
  case msSetdefaults => exact ⟨_, (msResetAndSetDefaults s).2, rfl, rfl, rfl⟩
  case msDisable => exact ⟨_, hdisable, hp, rfl, rfl⟩
  case msSetstream => exact ⟨_, hsetstream, hp, rfl, rfl⟩
  case msEnable => exact ⟨_, henable, hp, rfl, rfl⟩
  case msSetrate => exact ⟨_, hsetrate, rfl, rfl, rfl⟩
  case msGetid => exact ⟨_, hgetid, hp, rfl, rfl⟩
  case msStatus => exact ⟨_, hstatus, hp, rfl, rfl⟩
  case msUnknown => exact msUnknown_row hp hwf
  case msPRate => cases hadmitted

/-! ## O42 -/

/-- Settles O42: `0xFF` as a command, every other command, the rate byte. -/
theorem msPendingAndModeTransitionTable : Obligations.MsPendingAndModeTransitionTable := by
  intro s b
  rw [exec_evRxframe_ms (decodeFrame_encodeFrame b)]
  cases hp : s.ms.pending with
  | idle =>
    by_cases hb : b = 0xFF
    · subst hb
      exact ⟨_, (msResetAndSetDefaults s).1, rfl, rfl, rfl⟩
    · obtain ⟨t, hexec, hpending, hmode, hlink⟩ := msCommand_row hp hb
      refine ⟨t, hexec, ?_, ?_, hlink.trans ?_⟩
      · simpa only [true_and] using hpending
      · simpa only [ne_eq, not_true_eq_false, if_false, hb, false_or] using hmode
      · simp only [true_and, hb, if_false] <;> rfl
  | rate =>
    obtain ⟨w, -, hexec⟩ := msRateParameterPushesTheWindow s b
    exact ⟨_, hexec, rfl, rfl, rfl⟩

/-! ## O27 -/

theorem exec_evRxframe_kb_reset {s : State} (hp : s.kb.pending = .idle) :
    exec (.evRxframe .kb (encodeFrame 0xFF)) s = exec .kbReset s := by
  rw [exec_evRxframe_kb (decodeFrame_encodeFrame 0xFF), hp]
  rfl

theorem exec_evRxframe_ms_reset {s : State} (hp : s.ms.pending = .idle) :
    exec (.evRxframe .ms (encodeFrame 0xFF)) s = exec .msReset s := by
  rw [exec_evRxframe_ms (decodeFrame_encodeFrame 0xFF), hp]
  rfl

/-- After `0xFF` the keyboard awaits nothing, be it the reset or a parameter. -/
theorem exec_kb_0xFF_pending (s : State) :
    ∃ t, exec (.evRxframe .kb (encodeFrame 0xFF)) s = .next t ∧ t.kb.pending = .idle := by
  by_cases hp : s.kb.pending = .idle
  · rw [exec_evRxframe_kb_reset hp]
    exact ⟨_, kbResetRestoresEveryDefault s, rfl⟩
  · obtain ⟨t, hexec, hpending, -⟩ := kbParam_row hp 0xFF
    exact ⟨t, (exec_evRxframe_kb (decodeFrame_encodeFrame 0xFF) s).trans hexec, hpending⟩

/-- Settles O27: the second `0xFF` is the reset, since after the first nothing is awaited. -/
theorem twoResetBytesResetEachDevice : Obligations.TwoResetBytesResetEachDevice := by
  intro s
  constructor
  · obtain ⟨t, hexec, hp⟩ := exec_kb_0xFF_pending s
    refine ⟨t, _, hexec, (exec_evRxframe_kb_reset hp).trans (kbResetRestoresEveryDefault t), rfl, rfl, rfl, rfl⟩
  · obtain ⟨t, hexec, hp, -⟩ := msPendingAndModeTransitionTable s 0xFF
    have hidle : t.ms.pending = .idle := hp.trans (if_neg fun h => absurd h.2 (by decide))
    exact ⟨t, _, hexec, (exec_evRxframe_ms_reset hidle).trans (msResetAndSetDefaults t).1, rfl, rfl, rfl⟩

end Sys2Proof.Machine
end

section
/-! What every instruction keeps (10_state.md R12, R41, R42, R58; 43_keyboard_keys_typematic.md R251): O26, O37, O44 and O53,
each by the cases of `Ran`. -/

namespace Sys2Proof.Machine

/-! ## O26 -/

/-- What O26 says of a step. -/
def LedsForwarded (s t : State) : Prop :=
  (t.kb.ledMask = s.kb.ledMask ∧ t.leds = s.leds) ∨ t.leds = s.leds ++ [t.kb.ledMask]

theorem KbFrame.ledsForwarded {f : Bool} {s t : State} (h : KbFrame f s t) : LedsForwarded s t := h.leds.imp_left And.symm

theorem SameKb.ledsForwarded {s t : State} (h : SameKb s t) : LedsForwarded s t := by
  obtain ⟨hkb, -, hleds⟩ := h
  exact .inl ⟨by rw [hkb], hleds⟩

theorem setLink_ledsForwarded (s : State) (d : Dev) (l : Link) : LedsForwarded s (s.setLink d l) :=
  .inl ⟨by rw [setLink_kb], setLink_leds s d l⟩

theorem Ran.ledsForwarded {i : Instr} {s t : State} (h : Ran i s t) (hi : i ≠ .evMount) : LedsForwarded s t := by
  cases h with
  | kbByte _ _ hf | kbReceived _ _ hf => exact hf.ledsForwarded
  | msByte _ _ hf | msReceived _ _ hf => exact hf.sameKb.ledsForwarded
  | parityError | badFrame => rw [send_eq]; exact setLink_ledsForwarded _ _ _
  | tx => exact setLink_ledsForwarded _ _ _
  | kbReport r ht =>
    have hframe := kbKeys_frame (diffEvents s.kb.prevMods s.kb.prevKeys (normReport s.cfg.nkroLayout r)) s
    rw [ht, hframe.rest, hframe.kb]
    exact .inl ⟨rfl, rfl⟩
  | kbTick => rw [send_eq]; exact .inl ⟨rfl, rfl⟩
  | msTick hmode => exact ((Ran.msTick hmode).sameKb rfl).ledsForwarded
  | returned | msReport => exact .inl ⟨rfl, rfl⟩
  | mount => exact absurd rfl hi

/-- Settles O26: the writes of the mask are those of `KbFrame`, and nothing else writes mask or trace. -/
theorem ledSinkFollowsTheMask : Obligations.LedSinkFollowsTheMask := fun _ _ _ hi hexec =>
  (exec_ran hexec).ledsForwarded hi

/-! ## O53 -/

theorem send_wire (d d' : Dev) (p : Packet) (s : State) : ((send d p s).link d').wire = (s.link d').wire := by
  rw [send_eq]
  by_cases hd : d' = d
  · subst hd
    rw [link_setLink]
  · rw [link_setLink_of_ne hd]

theorem KbFrame.wire {f : Bool} {s t : State} (h : KbFrame f s t) (d : Dev) : (t.link d).wire = (s.link d).wire := by
  cases d with
  | kb => exact h.link.wire
  | ms => rw [h.rest]; rfl

theorem MsFrame.wire {f : Bool} {s t : State} (h : MsFrame f s t) (d : Dev) : (t.link d).wire = (s.link d).wire := by
  cases d with
  | kb => rw [h.rest]; rfl
  | ms => exact h.link.wire

theorem KeyFrame.wire {s t : State} (h : KeyFrame s t) (d : Dev) : (t.link d).wire = (s.link d).wire := by
  cases d with
  | kb => rw [link_kb, h.link]; rfl
  | ms => rw [h.rest]; rfl

theorem tx_wire_prefix (s : State) (d d' : Dev) (p : Packet) (rest : List Packet) (b : Byte) :
    (s.link d').wire <+: ((s.setLink d (linkAfterTx (s.link d) p rest b)).link d').wire := by
  by_cases hd : d' = d
  · subst hd
    rw [link_setLink]
    exact List.prefix_append _ _
  · rw [link_setLink_of_ne hd]

theorem Ran.wire_prefix {i : Instr} {s t : State} (h : Ran i s t) (hi : i ≠ .evMount) (d : Dev) :
    (s.link d).wire <+: (t.link d).wire := by
  cases h with
  | kbByte _ _ hf | kbReceived _ _ hf => rw [hf.wire d]
  | msByte _ _ hf | msReceived _ _ hf => rw [hf.wire d]
  | parityError | badFrame => rw [send_wire]
  | tx => exact tx_wire_prefix s _ d _ _ _
  | kbReport _ ht => rw [link_setKb, ht, (kbKeys_frame _ s).wire d]
  | kbTick => rw [link_setKb, send_wire]
  | msTick =>
    obtain ⟨p, hlink⟩ := msTick_link s
    rw [hlink d, send_wire]
  | msReport => rw [link_setMs]
  | returned => cases d <;> exact List.prefix_rfl
  | mount => exact absurd rfl hi

theorem Ran.cfg_schedule {i : Instr} {s t : State} (h : Ran i s t) : t.cfg = s.cfg ∧ t.schedule = s.schedule := by
  cases h with
  | kbByte _ _ hf | kbReceived _ _ hf => rw [hf.rest]; exact ⟨rfl, rfl⟩
  | msByte _ _ hf | msReceived _ _ hf => rw [hf.rest]; exact ⟨rfl, rfl⟩
  | parityError | badFrame => rw [send_eq]; exact ⟨setLink_cfg _ _ _, setLink_schedule _ _ _⟩
  | tx => exact ⟨setLink_cfg _ _ _, setLink_schedule _ _ _⟩
  | kbReport _ ht => rw [ht, (kbKeys_frame _ s).rest]; exact ⟨rfl, rfl⟩
  | kbTick => rw [send_eq]; exact ⟨rfl, rfl⟩
  | msTick =>
    obtain ⟨acc, st, p, -, heq⟩ := msTick_frame s
    rw [heq]
    exact ⟨rfl, rfl⟩
  | returned | msReport | mount => exact ⟨rfl, rfl⟩

theorem LedsForwarded.leds_prefix {s t : State} (h : LedsForwarded s t) : s.leds <+: t.leds := by
  rcases h with ⟨-, hsame⟩ | happend
  · rw [hsame]
  · rw [happend]
    exact List.prefix_append _ _

/-- Settles O53: the two wires, and the LED trace by O26. -/
theorem tracesOnlyGrow : Obligations.TracesOnlyGrow := by
  intro s t i hexec
  have hran := exec_ran hexec
  obtain ⟨hcfg, hschedule⟩ := hran.cfg_schedule
  exact ⟨hcfg, hschedule, fun hi =>
    ⟨hran.wire_prefix hi .kb, hran.wire_prefix hi .ms, (hran.ledsForwarded hi).leds_prefix⟩⟩

/-! ## O37 -/

/-- Timer and held key as they were. -/
def RepeatKept (s t : State) : Prop := t.kb.timer = s.kb.timer ∧ t.kb.heldKey = s.kb.heldKey

theorem SameKb.repeatKept {s t : State} (h : SameKb s t) : RepeatKept s t := by
  obtain ⟨hkb, -⟩ := h
  exact ⟨by rw [hkb], by rw [hkb]⟩

theorem setLink_repeatKept (s : State) (d : Dev) (l : Link) : RepeatKept s (s.setLink d l) :=
  ⟨by rw [setLink_kb], by rw [setLink_kb]⟩

theorem repeatKept_of_send {s t u : State} {p : Packet} (h : (.next (send .kb p u) : Out) = .next t)
    (hu : RepeatKept s u) : RepeatKept s t := by
  cases h
  rw [send_eq]
  exact hu

theorem repeatKept_of_set3Only {s t : State} {f : KbState → KbState}
    (h : (.next (set3Only (fun s => sendAck .kb (s.setKb (f s.kb))) s) : Out) = .next t)
    (hf : RepeatKept s (s.setKb (f s.kb))) : RepeatKept s t := by
  rw [next_set3Only] at h
  cases h
  unfold RepeatKept
  dsimp only
  split_ifs
  · exact hf
  · exact ⟨rfl, rfl⟩

/-- The commands and parameters of the keyboard that are no writers of the repeat. -/
theorem kbByte_repeatKept {i : Instr} {s t : State} (hi : isKbByte i = true)
    (hne : i ∉ [Instr.kbReset, .kbDisable, .kbSetdefaults]) (h : exec i s = .next t) : RepeatKept s t := by
  cases i <;> simp only [isKbByte, Bool.false_eq_true] at hi
  case kbReset | kbDisable | kbSetdefaults => exact absurd (by decide) hne
  case kbResend => exact repeatKept_of_send ((execKbResend_eq s).symm.trans h) ⟨rfl, rfl⟩
  case kbUnknown b => exact repeatKept_of_send ((execKbUnknown_eq b s).symm.trans h) ⟨rfl, rfl⟩
  case kbPScanset n =>
    obtain ⟨u, hu, -, -, hkept⟩ := kbPScanset_row s n
    cases h.symm.trans hu
    exact hkept
  case kbKeymake => exact repeatKept_of_set3Only (f := fun k => { k with pending := .keyMode _ }) h ⟨rfl, rfl⟩
  case kbKeymakebreak => exact repeatKept_of_set3Only (f := fun k => { k with pending := .keyMode _ }) h ⟨rfl, rfl⟩
  case kbKeytypematic => exact repeatKept_of_set3Only (f := fun k => { k with pending := .keyMode _ }) h ⟨rfl, rfl⟩
  case kbAlltmb => exact repeatKept_of_set3Only (f := fun k => { k with keyMode := Vector.replicate 256 _ }) h ⟨rfl, rfl⟩
  case kbAllmake => exact repeatKept_of_set3Only (f := fun k => { k with keyMode := Vector.replicate 256 _ }) h ⟨rfl, rfl⟩
  case kbAllmakebreak => exact repeatKept_of_set3Only (f := fun k => { k with keyMode := Vector.replicate 256 _ }) h ⟨rfl, rfl⟩
  case kbAlltypematic => exact repeatKept_of_set3Only (f := fun k => { k with keyMode := Vector.replicate 256 _ }) h ⟨rfl, rfl⟩
  all_goals exact repeatKept_of_send h ⟨rfl, rfl⟩

/-- Settles O37: an instruction of the mouse stays on the mouse, a byte of the keyboard is one of the three writers or
keeps the repeat. -/
theorem typematicTimerWriters : Obligations.TypematicTimerWriters := by
  intro s t i hexec hframe hreport hwriters
  simp only [List.mem_cons, List.not_mem_nil, or_false, not_or] at hwriters
  obtain ⟨hmount, htick, hwriters⟩ := hwriters
  show RepeatKept s t
  cases exec_ran hexec with
  | kbByte hi hrun => exact kbByte_repeatKept hi (by simpa using hwriters) hrun
  | msByte _ _ hf | msReceived _ _ hf => exact hf.sameKb.repeatKept
  | parityError | badFrame => rw [send_eq]; exact setLink_repeatKept _ _ _
  | tx => exact setLink_repeatKept _ _ _
  | msTick hmode => exact ((Ran.msTick hmode).sameKb rfl).repeatKept
  | returned | msReport => exact ⟨rfl, rfl⟩
  | kbReceived => exact absurd rfl (hframe _)
  | kbReport r => exact absurd rfl (hreport r)
  | kbTick => exact absurd rfl htick
  | mount => exact absurd rfl hmount

/-! ## O44 -/

theorem deviceRank_le_promote (t : DeviceType) (w : BitVec 24) : deviceRank t ≤ deviceRank (promote t w) := by
  unfold promote
  cases t with
  | standard => exact Nat.zero_le _
  | wheel3 => dsimp only; split_ifs <;> decide
  | wheel5 => exact le_rfl

/-- What a mouse byte does to the device type: kept, promoted, or back to `Standard` by reset or set-defaults. -/
theorem msByte_deviceType {i : Instr} {s t : State} (hi : isMsByte i = true) (h : exec i s = .next t) :
    deviceRank s.ms.deviceType ≤ deviceRank t.ms.deviceType ∨
      ((i = .msReset ∨ i = .msSetdefaults) ∧ t.ms.deviceType = .standard) := by
  have sent : ∀ {p u}, (.next (send .ms p u) : Out) = .next t → t.ms = u.ms := by
    intro p u hsend
    cases hsend
    rw [send_eq, setLink_ms]
  cases i <;> simp only [isMsByte, Bool.false_eq_true] at hi
  case msReset => exact .inr ⟨.inl rfl, by rw [sent h]; rfl⟩
  case msSetdefaults => exact .inr ⟨.inr rfl, by rw [sent h]; rfl⟩
  case msPRate =>
    refine .inl ?_
    rw [sent h]
    exact deviceRank_le_promote _ _
  all_goals exact .inl (congrArg (fun m : MsState => deviceRank m.deviceType) (sent h)).ge

theorem defaultsMs_of_decodes {s : State} {f : Frame} {b : Byte} (hf : decodeFrame f = .ok b)
    (h : decodeMsByte s.ms.pending b = .msSetdefaults) : defaultsMs (.evRxframe .ms f) s = true := by
  obtain ⟨-, hadmitted, hword⟩ := decodeMsByte_reads ⟨.idle, s.ms.pending⟩ b
  rw [h] at hadmitted hword
  have hp : s.ms.pending = .idle := eq_of_beq hadmitted
  cases hword
  simp [defaultsMs, delivered_evRxframe hf, hp]

theorem SameMs.deviceRank_le {s t : State} (h : SameMs s t) : deviceRank s.ms.deviceType ≤ deviceRank t.ms.deviceType := by
  rw [h.1]

/-- Settles O44: only bytes of the mouse write the type, and they are `msByte_deviceType`. -/
theorem deviceTypeNeverRegresses : Obligations.DeviceTypeNeverRegresses := by
  intro s t i hi hexec
  cases exec_ran hexec with
  | msByte hms hrun =>
    refine (msByte_deviceType hms hrun).imp_right (And.imp_left fun hback => ?_)
    rcases hback with rfl | rfl
    · exact .inl rfl
    · exact .inr rfl
  | @msReceived _ _ _ b hf hrun =>
    refine (msByte_deviceType (isMsByte_decode _ b) hrun).imp_right (And.imp_left fun hback => ?_)
    exact hback.imp (resetsMs_of_decodes hf) (defaultsMs_of_decodes hf)
  | kbByte _ _ hf | kbReceived _ _ hf => exact .inl hf.sameMs.deviceRank_le
  | parityError | badFrame => rw [send_eq, setLink_ms]; exact .inl le_rfl
  | tx => rw [setLink_ms]; exact .inl le_rfl
  | kbReport r ht => exact .inl ((Ran.kbReport r ht).sameMs rfl).deviceRank_le
  | kbTick p hon => exact .inl ((Ran.kbTick p hon).sameMs rfl).deviceRank_le
  | msTick =>
    obtain ⟨acc, st, p, -, heq⟩ := msTick_frame s
    rw [heq]
    exact .inl le_rfl
  | returned | msReport => exact .inl le_rfl
  | mount => exact absurd rfl hi

end Sys2Proof.Machine
end

section
/-! Noninterference (10_state.md R20): an instruction of one device runs alike on the block with the other device forgotten,
and O52. -/

namespace Sys2Proof.Machine

/-! ## One side of the block -/

/-- The state with everything but the configuration and the keyboard's side forgotten. -/
def kbOnly (s : State) : State :=
  { State.reset with cfg := s.cfg, kb := s.kb, kbLink := s.kbLink, leds := s.leds }

/-- The state with everything but the configuration and the mouse's side forgotten. -/
def msOnly (s : State) : State := { State.reset with cfg := s.cfg, ms := s.ms, msLink := s.msLink }

/-- A change of the state that sees one side only: forgetting before it or after it comes to the same. -/
def Local (forget f : State → State) : Prop := ∀ s, f (forget s) = forget (f s)

/-- An instruction that sees one side only: what is left of `s` runs in what is left of `t`. -/
def RunsOn (forget : State → State) (i : Instr) : Prop := ∀ s t, exec i s = .next t → exec i (forget s) = .next (forget t)

theorem RunsOn.of_local {forget f : State → State} {i : Instr} (hexec : ∀ s, exec i s = .next (f s))
    (hf : Local forget f) : RunsOn forget i := by
  intro s t h
  cases (hexec s).symm.trans h
  rw [hexec, hf s]

theorem Local.send_kb {f : State → State} {p : State → Packet} (hf : Local kbOnly f) (hp : ∀ s, p (kbOnly s) = p s) :
    Local kbOnly (fun s => send .kb (p s) (f s)) := by
  intro s
  dsimp only
  rw [hf s, hp s, send_eq, send_eq]
  rfl

theorem Local.send_ms {f : State → State} {p : State → Packet} (hf : Local msOnly f) (hp : ∀ s, p (msOnly s) = p s) :
    Local msOnly (fun s => send .ms (p s) (f s)) := by
  intro s
  dsimp only
  rw [hf s, hp s, send_eq, send_eq]
  rfl

theorem Local.set3Only {f : KbState → KbState} :
    Local kbOnly (set3Only (fun s => sendAck .kb (s.setKb (f s.kb)))) := by
  intro s
  rw [set3Only_setKb, set3Only_setKb]
  rfl

/-! ## The keyboard's instructions -/

theorem kbPScanset_runsOn (n : Byte) : RunsOn kbOnly (.kbPScanset n) := by
  by_cases h0 : n = 0x00
  · subst h0
    exact .of_local execKbPScanset_zero fun _ => rfl
  by_cases h1 : n = 0x01
  · subst h1
    exact .of_local execKbPScanset_one fun _ => rfl
  by_cases h3 : n = 0x03
  · subst h3
    exact .of_local execKbPScanset_three fun _ => rfl
  exact .of_local (execKbPScanset_other h0 h1 h3) fun _ => rfl

theorem kbByte_runsOn {i : Instr} (hi : isKbByte i = true) : RunsOn kbOnly i := by
  cases i <;> simp only [isKbByte, Bool.false_eq_true] at hi
  case kbReset => exact .of_local kbResetRestoresEveryDefault fun _ => rfl
  case kbResend => exact .of_local execKbResend_eq (.send_kb (fun _ => rfl) fun _ => rfl)
  case kbUnknown b => exact .of_local (execKbUnknown_eq b) (.send_kb (fun _ => rfl) fun _ => rfl)
  case kbPScanset n => exact kbPScanset_runsOn n
  case kbKeymake | kbKeymakebreak | kbKeytypematic =>
    exact .of_local (fun _ => rfl) (Local.set3Only (f := fun k => { k with pending := .keyMode _ }))
  case kbAlltmb | kbAllmake | kbAllmakebreak | kbAlltypematic =>
    exact .of_local (fun _ => rfl) (Local.set3Only (f := fun k => { k with keyMode := Vector.replicate 256 _ }))
  all_goals exact .of_local (fun _ => rfl) (.send_kb (fun _ => rfl) fun _ => rfl)

theorem kbPress_local (u : Byte) (set : ScanSet) (s : State) : kbPress u set (kbOnly s) = kbOnly (kbPress u set s) := by
  rw [kbPress_eq, kbPress_eq, apply_ite kbOnly]
  rfl

theorem kbRelease_local (u : Byte) (set : ScanSet) (s : State) :
    kbRelease u set (kbOnly s) = kbOnly (kbRelease u set s) := by
  rw [kbRelease_eq, kbRelease_eq]
  rfl

theorem kbKey_local (u : Byte) (pressed : Bool) : Local kbOnly (kbKey u pressed) := by
  intro s
  cases he : s.kb.enabled with
  | false => rw [kbKey_disabled he, kbKey_disabled (s := kbOnly s) he]
  | true =>
    rw [kbKey_of_enabled he, kbKey_of_enabled (s := kbOnly s) he]
    cases pressed with
    | true => exact kbPress_local u _ s
    | false => exact kbRelease_local u _ s

theorem kbKeys_local (es : List KeyEvent) : Local kbOnly (kbKeys es) := by
  intro s
  unfold kbKeys
  induction es generalizing s with
  | nil => rfl
  | cons e es ih => rw [List.foldl_cons, List.foldl_cons, kbKey_local, ih]

theorem evKbreport_runsOn (r : KbReport) : RunsOn kbOnly (.evKbreport r) := by
  refine .of_local (fun _ => rfl) fun s => ?_
  exact congrArg
    (fun u : State => u.setKb { u.kb with
      prevMods := (normReport s.cfg.nkroLayout r).mods, prevKeys := (normReport s.cfg.nkroLayout r).keys })
    (kbKeys_local (diffEvents s.kb.prevMods s.kb.prevKeys (normReport s.cfg.nkroLayout r)) s)

theorem evKbtick_runsOn : RunsOn kbOnly .evKbtick := by
  intro s t h
  obtain ⟨harmed, -⟩ := exec_evKbtick h
  cases (execEvKbtick_of_armed harmed).symm.trans h
  exact execEvKbtick_of_armed (s := kbOnly s) harmed

theorem evRxframe_kb_runsOn (f : Frame) : RunsOn kbOnly (.evRxframe .kb f) := by
  cases hf : decodeFrame f with
  | parityError =>
    exact .of_local (execEvRxframe_of_parityError hf .kb) (.send_kb (fun _ => rfl) fun _ => rfl)
  | ok b =>
    intro s t h
    rw [exec_evRxframe_kb hf] at h ⊢
    exact kbByte_runsOn (isKbByte_decode s.kb.pending b) s t h

theorem evTx_kb_runsOn : RunsOn kbOnly (.evTx .kb) := by
  intro s t h
  obtain ⟨p, rest, b, hq, hb, rfl⟩ := exec_evTx h
  exact execEvTx_of_cons (s := kbOnly s) hq hb

theorem runsOn_kbOnly {i : Instr} (hacts : actsOn i .kb = true) (hi : i ≠ .evMount) : RunsOn kbOnly i := by
  cases hbyte : isKbByte i with
  | true => exact kbByte_runsOn hbyte
  | false =>
    cases i with
    | evMount => exact absurd rfl hi
    | evRxframe d f => cases eq_of_beq hacts; exact evRxframe_kb_runsOn f
    | evParityerror d =>
      cases eq_of_beq hacts
      exact .of_local (fun _ => rfl) (.send_kb (fun _ => rfl) fun _ => rfl)
    | evTx d => cases eq_of_beq hacts; exact evTx_kb_runsOn
    | evKbreport r => exact evKbreport_runsOn r
    | evKbtick => exact evKbtick_runsOn
    | frameEncode | frameDecode | mspkt3 | mspkt4Wheel3 | mspkt4Wheel5 | evMsreport | evMstick | msReset
    | msSetdefaults | msDisable | msEnable | msSetrate | msGetid | msSetstream | msStatus | msUnknown
    | msPRate => cases hacts
    | _ => cases hbyte

/-! ## The mouse's instructions -/

theorem msByte_runsOn {i : Instr} (hi : isMsByte i = true) : RunsOn msOnly i := by
  cases i <;> simp only [isMsByte, Bool.false_eq_true] at hi
  all_goals exact .of_local (fun _ => rfl) (.send_ms (fun _ => rfl) fun _ => rfl)

theorem msTick_local : Local msOnly msTick := by
  intro s
  rw [msTick_eq, msTick_eq]
  dsimp only
  rw [apply_ite msOnly, apply_ite msOnly, apply_ite msOnly]
  rfl

theorem evMstick_runsOn : RunsOn msOnly .evMstick := by
  intro s t h
  obtain ⟨hmode, rfl⟩ := exec_evMstick h
  exact (execEvMstick_of_streaming (s := msOnly s) hmode).trans (congrArg Host.Outcome.next (msTick_local s))

theorem evRxframe_ms_runsOn (f : Frame) : RunsOn msOnly (.evRxframe .ms f) := by
  cases hf : decodeFrame f with
  | parityError =>
    exact .of_local (execEvRxframe_of_parityError hf .ms) (.send_ms (fun _ => rfl) fun _ => rfl)
  | ok b =>
    intro s t h
    rw [exec_evRxframe_ms hf] at h ⊢
    exact msByte_runsOn (isMsByte_decode s.ms.pending b) s t h

theorem evTx_ms_runsOn : RunsOn msOnly (.evTx .ms) := by
  intro s t h
  obtain ⟨p, rest, b, hq, hb, rfl⟩ := exec_evTx h
  exact execEvTx_of_cons (s := msOnly s) hq hb

theorem runsOn_msOnly {i : Instr} (hacts : actsOn i .ms = true) (hi : i ≠ .evMount) : RunsOn msOnly i := by
  cases hbyte : isMsByte i with
  | true => exact msByte_runsOn hbyte
  | false =>
    cases i with
    | evMount => exact absurd rfl hi
    | evRxframe d f => cases eq_of_beq hacts; exact evRxframe_ms_runsOn f
    | evParityerror d =>
      cases eq_of_beq hacts
      exact .of_local (fun _ => rfl) (.send_ms (fun _ => rfl) fun _ => rfl)
    | evTx d => cases eq_of_beq hacts; exact evTx_ms_runsOn
    | evMsreport r => cases r <;> exact .of_local (fun _ => rfl) fun _ => rfl
    | evMstick => exact evMstick_runsOn
    | msReset | msSetdefaults | msDisable | msEnable | msSetrate | msGetid | msSetstream | msStatus | msUnknown
    | msPRate => cases hbyte
    | _ => cases hacts

/-! ## O52 -/

/-- An instruction that sees one side only cannot tell two states apart that agree on that side. -/
theorem RunsOn.agree {forget : State → State} {i : Instr} (h : RunsOn forget i) {s s' t t' : State}
    (hs : forget s = forget s') (hexec : exec i s = .next t) (hexec' : exec i s' = .next t') : forget t = forget t' := by
  have hrun := h s t hexec
  rw [hs, h s' t' hexec'] at hrun
  exact (Host.Outcome.next.inj hrun).symm

theorem agree_kb {s s' t t' : State} {i : Instr} (hcfg : s.cfg = s'.cfg) (hexec : exec i s = .next t)
    (hexec' : exec i s' = .next t') (hkb : s.kb = s'.kb) (hlink : s.kbLink = s'.kbLink) (hleds : s.leds = s'.leds) :
    t.kb = t'.kb ∧ t.kbLink = t'.kbLink ∧ t.leds = t'.leds := by
  cases hacts : actsOn i .kb with
  | false =>
    obtain ⟨h1, h2, h3⟩ := (exec_ran hexec).sameKb hacts
    obtain ⟨h1', h2', h3'⟩ := (exec_ran hexec').sameKb hacts
    rw [h1, h2, h3, h1', h2', h3']
    exact ⟨hkb, hlink, hleds⟩
  | true =>
    by_cases hi : i = .evMount
    · subst hi
      rw [exec_evMount hexec, exec_evMount hexec']
      exact ⟨congrArg KbState.afterMount hcfg, rfl, rfl⟩
    · have hside : kbOnly s = kbOnly s' := by rw [kbOnly, kbOnly, hcfg, hkb, hlink, hleds]
      have hagree := (runsOn_kbOnly hacts hi).agree hside hexec hexec'
      have hk := congrArg State.kb hagree
      have hl := congrArg State.kbLink hagree
      have hd := congrArg State.leds hagree
      exact ⟨hk, hl, hd⟩

theorem agree_ms {s s' t t' : State} {i : Instr} (hcfg : s.cfg = s'.cfg) (hexec : exec i s = .next t)
    (hexec' : exec i s' = .next t') (hms : s.ms = s'.ms) (hlink : s.msLink = s'.msLink) :
    t.ms = t'.ms ∧ t.msLink = t'.msLink := by
  cases hacts : actsOn i .ms with
  | false =>
    obtain ⟨h1, h2⟩ := (exec_ran hexec).sameMs hacts
    obtain ⟨h1', h2'⟩ := (exec_ran hexec').sameMs hacts
    rw [h1, h2, h1', h2']
    exact ⟨hms, hlink⟩
  | true =>
    by_cases hi : i = .evMount
    · subst hi
      rw [exec_evMount hexec, exec_evMount hexec']
      exact ⟨rfl, rfl⟩
    · have hside : msOnly s = msOnly s' := by rw [msOnly, msOnly, hcfg, hms, hlink]
      have hagree := (runsOn_msOnly hacts hi).agree hside hexec hexec'
      have hm := congrArg State.ms hagree
      have hl := congrArg State.msLink hagree
      exact ⟨hm, hl⟩

/-- Settles O52: `agree_kb` and `agree_ms`. -/
theorem devicesDoNotInfluenceEachOther : Obligations.DevicesDoNotInfluenceEachOther := fun _ _ _ _ _ hcfg hexec hexec' =>
  ⟨agree_kb hcfg hexec hexec', agree_ms hcfg hexec hexec'⟩

end Sys2Proof.Machine
end

section
/-! The frame rows (40_frame_codec.md), the words of the decoder (30_encoding.md sections 1 to 3), one step of the block,
and O1, O2, O59, O60. -/

namespace Sys2Proof.Machine

/-! ## Frames -/

theorem encodeFrame_toNat (b : Byte) : (encodeFrame b).toNat =
    1024 + 512 * (if ((List.range 8).countP b.getLsbD) % 2 = 0 then 1 else 0) + 2 * b.toNat := by
  revert b
  decide +kernel

/-- Settles O1: `encodeFrame_toNat`. -/
theorem frameEncodeReturnsTheFrame : Obligations.FrameEncodeReturnsTheFrame := fun _ b =>
  ⟨encodeFrame b, rfl, encodeFrame_toNat b⟩

/-- The nine bits after the start bit hold an odd number of ones exactly when the last of them is the parity of the rest. -/
theorem frameOnes_odd_iff (f : Frame) : frameOnes f % 2 = 1 ↔
    (f.getLsbD 9 = true ↔ ((List.range 8).countP fun i => f.getLsbD (i + 1)) % 2 = 0) := by
  rw [frameOnes, List.range_succ, List.countP_append, List.countP_singleton]
  cases f.getLsbD 9 <;> simp only [Bool.false_eq_true, if_true, if_false, true_iff, false_iff] <;> omega

theorem frameData_eq_iff (f : Frame) (b : Byte) : frameData f = b ↔ ∀ i, i < 8 → b.getLsbD i = f.getLsbD (i + 1) := by
  have hbit (i : Nat) (hi : i < 8) : (frameData f).getLsbD i = f.getLsbD (i + 1) := by
    rw [frameData, BitVec.getLsbD_extractLsb', decide_eq_true hi, Bool.true_and, Nat.add_comm]
  constructor
  · rintro rfl i hi
    exact hbit i hi
  · intro h
    exact BitVec.eq_of_getLsbD_eq fun i hi => (hbit i hi).trans (h i hi).symm

/-- Settles O2: `decodeFrame_eq_ok_iff`, with the parity and the data read bit by bit. -/
theorem frameDecodeChecksStartStopAndParity : Obligations.FrameDecodeChecksStartStopAndParity := by
  intro s f
  refine ⟨decodeFrame f, rfl, fun b => ?_⟩
  rw [decodeFrame_eq_ok_iff, FrameValid, frameOnes_odd_iff, frameData_eq_iff, and_assoc, and_assoc]

/-! ## The decoder -/

/-- Settles O59: the two code maps are finite tables, and the fields of the typematic parameter are O19's. -/
theorem codeMapsAndSampleWordsDecode : Obligations.CodeMapsAndSampleWordsDecode := by
  refine ⟨fun _ b => congrArg DecodeResult.ok ?_, fun _ b => congrArg DecodeResult.ok ?_,
    fun _ b => ⟨rfl, congrArg DecodeResult.ok (kbTypematicParameterSelectsRateAndDelay.1 b), rfl, fun _ => rfl⟩,
    fun _ _ => rfl, fun _ _ _ => ⟨rfl, rfl, rfl, rfl, rfl, rfl, rfl⟩,
    fun _ _ _ _ _ _ _ _ _ _ _ _ _ => ⟨rfl, rfl, rfl, rfl⟩, ?_⟩
  · change decodeKbCommand b = _
    revert b
    decide +kernel
  · change decodeMsCommand b = _
    revert b
    decide +kernel
  · decide +kernel

/-! ## One step -/

/-- Settles O60: the step fetches `w` and leaves `rest`. -/
theorem stepRunsTheDecodedInstruction : Obligations.StepRunsTheDecodedInstruction := by
  intro s w rest hs
  have hfetch : fetchInput s = some (w, { s with schedule := rest }) := by rw [fetchInput, hs]
  refine ⟨fun i hm hdec => ?_, fun e hm hdec => ?_, ?_, fun hm hw => ?_, rfl⟩
  · simp only [step, hfetch, mayCome, hm, Bool.true_or, fetchCtx, hdec, if_true]
  · simp only [step, hfetch, mayCome, hm, Bool.true_or, fetchCtx, hdec, if_true]
  · rintro hm rfl
    simp only [step, hfetch, mayCome, beq_self_eq_true, Bool.or_true, if_true]
    rfl
  · simp only [step, hfetch, mayCome, hm, Bool.false_or, beq_iff_eq, hw, if_false]

end Sys2Proof.Machine
end

section
/-! The promotion of the device type by three sample rates (44_mouse_commands.md R281, R282), and O43. -/

namespace Sys2Proof.Machine

/-! ## One rate -/

/-- The registers of the mouse after the rate `b` (R281). -/
def MsState.rated (m : MsState) (b : Byte) : MsState :=
  { m with
    sampleRate := b, window := pushWindow m.window b, deviceType := promote m.deviceType (pushWindow m.window b)
    pending := .idle }

/-- A byte for the mouse, as a frame, in the state the bytes before it led to. -/
def feedMs (o : Out) (b : Byte) : Out :=
  match o with
  | .next s => exec (.evRxframe .ms (encodeFrame b)) s
  | o => o

theorem feedMs_next (s : State) (b : Byte) : feedMs (.next s) b = exec (decodeMsByte s.ms.pending b) s :=
  exec_evRxframe_ms (decodeFrame_encodeFrame b) s

theorem execMsPRate_eq (b : Byte) (s : State) : exec (.msPRate b) s =
    .next { s with ms := s.ms.rated b, msLink := { s.msLink with q := queueAfter s .ms [0xFA] } } :=
  next_send_ms _ rfl rfl

/-- `F3 b` with no rate awaited runs MS.SETRATE and MS.P.RATE. -/
theorem foldl_feedMs_rate {s : State} (hidle : s.ms.pending = .idle) (b : Byte) (rest : List Byte) :
    ∃ t, t.ms = s.ms.rated b ∧ (0xF3 :: b :: rest).foldl feedMs (.next s) = rest.foldl feedMs (.next t) := by
  obtain ⟨-, -, -, hsetrate⟩ := msModeAndRateCommandsWriteOneRegister s
  have hcmd : decodeMsByte .idle 0xF3 = .msSetrate := rfl
  rw [List.foldl_cons, List.foldl_cons, feedMs_next, hidle, hcmd, hsetrate, feedMs_next]
  exact ⟨_, rfl, congrArg (rest.foldl feedMs) (execMsPRate_eq b _)⟩

/-! ## Three rates -/

/-- Both magic sequences end with the rate 80. -/
theorem promote_pushWindow_of_ne (t : DeviceType) (w : BitVec 24) {b : Byte} (hb : b ≠ 0x50) :
    promote t (pushWindow w b) = t := by
  have hlow (v : BitVec 24) (hv : v.toNat % 256 = 0x50) : pushWindow w b ≠ v := by
    rintro rfl
    rw [pushWindow_toNat] at hv
    exact hb (BitVec.eq_of_toNat_eq (by have := b.isLt; change b.toNat = 80; omega))
  cases t with
  | standard => exact if_neg (hlow _ rfl)
  | wheel3 => exact if_neg (hlow _ rfl)
  | wheel5 => rfl

/-- Three bytes fill the window. -/
theorem pushWindow_three_toNat (w : BitVec 24) (a b c : Byte) :
    (pushWindow (pushWindow (pushWindow w a) b) c).toNat = a.toNat * 65536 + b.toNat * 256 + c.toNat := by
  have ha := a.isLt
  have hb := b.isLt
  have hc := c.isLt
  rw [pushWindow_toNat, pushWindow_toNat, pushWindow_toNat]
  omega

/-- The type after the rates 200, `b`, 80 is the promotion by the window they fill. -/
theorem rated_three_deviceType (m : MsState) {b : Byte} (hb : b = 0x64 ∨ b = 0xC8) :
    (((m.rated 0xC8).rated b).rated 0x50).deviceType = (
      match m.deviceType with
      | .standard => if b = 0x64 then .wheel3 else .standard
      | .wheel3 => if b = 0xC8 then .wheel5 else .wheel3
      | .wheel5 => .wheel5) := by
  have hb50 : b ≠ 0x50 := by rintro rfl; revert hb; decide
  change promote (promote (promote _ (pushWindow _ _)) (pushWindow _ b)) (pushWindow (pushWindow (pushWindow _ _) b) _) = _
  rw [promote_pushWindow_of_ne m.deviceType m.window (show (0xC8 : Byte) ≠ 0x50 by decide),
    promote_pushWindow_of_ne m.deviceType _ hb50]
  have hwindow (v : BitVec 24) (hv : 0xC8 * 65536 + b.toNat * 256 + 0x50 = v.toNat) :
      pushWindow (pushWindow (pushWindow m.window 0xC8) b) 0x50 = v :=
    BitVec.eq_of_toNat_eq ((pushWindow_three_toNat _ _ _ _).trans hv)
  rcases hb with rfl | rfl
  · rw [hwindow magicWheel3 rfl]
    cases m.deviceType <;> rfl
  · rw [hwindow magicWheel5 rfl]
    cases m.deviceType <;> rfl

/-- Settles O43: three rates, one after the other. -/
theorem handshakePromotesFromAnyWindow : Obligations.HandshakePromotesFromAnyWindow := by
  intro s b hb hidle
  obtain ⟨t₁, hms₁, hrun₁⟩ := foldl_feedMs_rate hidle 0xC8 [0xF3, b, 0xF3, 0x50]
  obtain ⟨t₂, hms₂, hrun₂⟩ := foldl_feedMs_rate (s := t₁) (by rw [hms₁]; rfl) b [0xF3, 0x50]
  obtain ⟨t₃, hms₃, hrun₃⟩ := foldl_feedMs_rate (s := t₂) (by rw [hms₂]; rfl) 0x50 []
  rw [hms₂, hms₁] at hms₃
  refine ⟨t₃, hrun₁.trans (hrun₂.trans hrun₃), ?_⟩
  rw [hms₃]
  exact ⟨rfl, rfl, rfl, rated_three_deviceType s.ms hb⟩

end Sys2Proof.Machine
end
